-- ==== Sys2Proof/Word.lean ====
section
/-!
DEFINITION. The word types of the ADV-MitutoyoSPC CORE: the nibble, the 16-bit command word and the 32-bit
response data word (spec/00_scope.md notation, spec/30_encoding.md R70 and R76).
-/

namespace Sys2Proof

/-- A nibble: a 4-bit unsigned value 0..15, the protocol's atomic data element (00_scope.md, notation and glossary). -/
abbrev Nibble := BitVec 4

/-- A command word: every command is one 16-bit word (30_encoding.md R70, R71). -/
abbrev CmdWord := BitVec 16

/-- A response data word, 32 bits, delivered in parallel (30_encoding.md R76, 20_memory.md R56). -/
abbrev DataWord := BitVec 32

end Sys2Proof
end

