-- ==== Sys2Proof/Config.lean ====
section
/-!
DEFINITION. The constants of spec/00_scope.md R9 and the parameters the spec leaves OPEN (R2, R6, R7, R8).
NSESS is the length of State's session list, STRICT_BCD and LAT are the record below, and State carries all of
them, so that a statement about every state is a statement about every value of every parameter.
-/

namespace Sys2Proof.Config

/-- `FRAME_NIBBLES`: "exactly 13 four-bit digits" (00_scope.md R9). -/
abbrev frameNibbles : Nat := 13

/-- `BITS_PER_NIBBLE` (00_scope.md R9). -/
abbrev bitsPerNibble : Nat := 4

/-- `BITS_PER_FRAME` (00_scope.md R9). -/
abbrev bitsPerFrame : Nat := 52

/-- `HEADER_NIBBLE`, the value each of the four header entries must have (00_scope.md R9, 10_state.md R28). -/
abbrev headerNibble : Nibble := 0xF#4

/-- `DIGITS`: six BCD digits (00_scope.md R9). -/
abbrev digits : Nat := 6

/-- The largest number of sessions a block is built with: `NSESS` is an integer in 1..16 (00_scope.md R6). -/
abbrev maxSessions : Nat := 16

/-- The parameters fixed when the block is built, beside the number of sessions (00_scope.md R7 and R8,
70_reset_and_hazards.md R252). -/
structure Params where
  /-- `STRICT_BCD`: true makes DECODE refuse a digit nibble above 9 (R7). -/
  strictBcd : Bool
  /-- `LAT`: clock cycles between a command's acceptance and its response, at least 1 (R8). -/
  lat : Nat
  deriving DecidableEq, Repr

/-- The spec's default for test vectors is `NSESS = 1` (R6; assumption log 1). -/
def defaultNsess : Nat := 1

/-- The spec's default for `STRICT_BCD` is false (R7). `LAT` = 1 is a DESIGN CHOICE: R8 gives only the bound
(assumption log 1). -/
def defaultParams : Params := { strictBcd := false, lat := 1 }

/-- `HW_VERSION`: "a named parameter with no architected value. No command reads it" (00_scope.md R2,
93_implementation_defined.md I15). It has no body, so nothing can be proved of its value. -/
opaque hwVersion : Nat

end Sys2Proof.Config
end

