-- ==== Sys2Proof/Syntax.lean ====
section
/-!
DEFINITION. The commands: one constructor for each row of spec/opcode_table.json (six legal commands and the ten
illegal opcodes). Every constructor carries the SID field as a session index and the whole DATA field as bits,
ignored bits included, so that no bit of a command word is dropped by decoding.
-/

namespace Sys2Proof

/-- A command (30_encoding.md R70 to R74). `sid` is the session index of `cmd[11:8]`; `data` is `cmd[7:0]`. -/
inductive Instr where
  /-- RESET: reset one session (40_accumulator.md R100). `DATA` is ignored. -/
  | reset (sid : Nat) (data : BitVec 8)
  /-- BIT: accept one bit, `DATA[0]` (40_accumulator.md R110). `DATA[7:1]` is ignored. -/
  | bit (sid : Nat) (data : BitVec 8)
  /-- DECODE: validate and decode a completed frame (41_decoder.md R130). `DATA` is ignored. -/
  | decode (sid : Nat) (data : BitVec 8)
  /-- RDF: read the floating-point value (42_result_access.md R170). `DATA` is ignored. -/
  | rdf (sid : Nat) (data : BitVec 8)
  /-- RDI: read the signed fixed-point mantissa (42_result_access.md R171). `DATA` is ignored. -/
  | rdi (sid : Nat) (data : BitVec 8)
  /-- RDU: read the unit, the decimal point and the flags (42_result_access.md R172). `DATA` is ignored. -/
  | rdu (sid : Nat) (data : BitVec 8)
  /-- The illegal opcode 0x0 (30_encoding.md R74). `SID` and `DATA` are not examined. -/
  | illegal0 (sid : Nat) (data : BitVec 8)
  /-- The illegal opcode 0x7 (30_encoding.md R74). `SID` and `DATA` are not examined. -/
  | illegal7 (sid : Nat) (data : BitVec 8)
  /-- The illegal opcode 0x8 (30_encoding.md R74). `SID` and `DATA` are not examined. -/
  | illegal8 (sid : Nat) (data : BitVec 8)
  /-- The illegal opcode 0x9 (30_encoding.md R74). `SID` and `DATA` are not examined. -/
  | illegal9 (sid : Nat) (data : BitVec 8)
  /-- The illegal opcode 0xA (30_encoding.md R74). `SID` and `DATA` are not examined. -/
  | illegalA (sid : Nat) (data : BitVec 8)
  /-- The illegal opcode 0xB (30_encoding.md R74). `SID` and `DATA` are not examined. -/
  | illegalB (sid : Nat) (data : BitVec 8)
  /-- The illegal opcode 0xC (30_encoding.md R74). `SID` and `DATA` are not examined. -/
  | illegalC (sid : Nat) (data : BitVec 8)
  /-- The illegal opcode 0xD (30_encoding.md R74). `SID` and `DATA` are not examined. -/
  | illegalD (sid : Nat) (data : BitVec 8)
  /-- The illegal opcode 0xE (30_encoding.md R74). `SID` and `DATA` are not examined. -/
  | illegalE (sid : Nat) (data : BitVec 8)
  /-- The illegal opcode 0xF (30_encoding.md R74). `SID` and `DATA` are not examined. -/
  | illegalF (sid : Nat) (data : BitVec 8)
  deriving DecidableEq, Repr

end Sys2Proof
end

