-- ==== Sys2Proof/WellFormed.lean ====
section
/-!
DEFINITION. Which terms of Instr a command word can spell (SID is a 4-bit field), and which of those are in the
assembler's canonical form (spec/30_encoding.md R70, R73, R75, R80).
-/

namespace Sys2Proof

/-- The session index a command names (30_encoding.md R73). -/
def Instr.sid : Instr → Nat
  | .reset sid _ => sid
  | .bit sid _ => sid
  | .decode sid _ => sid
  | .rdf sid _ => sid
  | .rdi sid _ => sid
  | .rdu sid _ => sid
  | .illegal0 sid _ => sid
  | .illegal7 sid _ => sid
  | .illegal8 sid _ => sid
  | .illegal9 sid _ => sid
  | .illegalA sid _ => sid
  | .illegalB sid _ => sid
  | .illegalC sid _ => sid
  | .illegalD sid _ => sid
  | .illegalE sid _ => sid
  | .illegalF sid _ => sid

/-- The DATA field of a command, ignored bits included (30_encoding.md R70). -/
def Instr.data : Instr → BitVec 8
  | .reset _ data => data
  | .bit _ data => data
  | .decode _ data => data
  | .rdf _ data => data
  | .rdi _ data => data
  | .rdu _ data => data
  | .illegal0 _ data => data
  | .illegal7 _ data => data
  | .illegal8 _ data => data
  | .illegal9 _ data => data
  | .illegalA _ data => data
  | .illegalB _ data => data
  | .illegalC _ data => data
  | .illegalD _ data => data
  | .illegalE _ data => data
  | .illegalF _ data => data

/-- The one check of a command term: its session index fits the 4-bit SID field, 0..15 (30_encoding.md R70). The
DATA field is a `BitVec 8`, so every value of it is encodable. -/
abbrev Instr.WellFormed (i : Instr) : Prop := i.sid < 16

/-- The DATA bits a command ignores (30_encoding.md R73): all but bit 0 for BIT, all of them for the other five legal
commands. An illegal opcode has no operand, and R75 lists no ignored bits for it. -/
def Instr.ignoredData : Instr → BitVec 8
  | .bit _ _ => 0xFE#8
  | .reset _ _ => 0xFF#8
  | .decode _ _ => 0xFF#8
  | .rdf _ _ => 0xFF#8
  | .rdi _ _ => 0xFF#8
  | .rdu _ _ => 0xFF#8
  | .illegal0 _ _ => 0x00#8
  | .illegal7 _ _ => 0x00#8
  | .illegal8 _ _ => 0x00#8
  | .illegal9 _ _ => 0x00#8
  | .illegalA _ _ => 0x00#8
  | .illegalB _ _ => 0x00#8
  | .illegalC _ _ => 0x00#8
  | .illegalD _ _ => 0x00#8
  | .illegalE _ _ => 0x00#8
  | .illegalF _ _ => 0x00#8

/-- The form an assembler writes: "An assembler writes every ignored bit as 0" (30_encoding.md R75). The block does
not check it. -/
abbrev Instr.Canonical (i : Instr) : Prop := i.data &&& i.ignoredData = 0#8

end Sys2Proof
end

