-- ==== Sys2Proof/Decode.lean ====
section
/-!
DEFINITION. Decoding a command word, total on every 16-bit word, and encoding a command
(spec/30_encoding.md R70 to R75; spec/opcode_table.json).
-/

namespace Sys2Proof

/-- `OP = cmd[15:12]` (30_encoding.md R70). -/
def opField (w : CmdWord) : Nibble := w.extractLsb' 12 4

/-- `SID = cmd[11:8]`, read as an unsigned session index (30_encoding.md R70, R73). -/
def sidField (w : CmdWord) : Nat := (w.extractLsb' 8 4).toNat

/-- `DATA = cmd[7:0]` (30_encoding.md R70). -/
def dataField (w : CmdWord) : BitVec 8 := w.extractLsb' 0 8

/-- The command with the given fields: "`OP` alone selects the command. No other field takes part in selecting it"
(30_encoding.md R72). Every opcode is a command: the ten with no operation answer ERR_ILLEGAL_COMMAND (R74, R76). The
last line is `OP` = 0xF, the one value left. -/
def ofFields (op : Nibble) (sid : Nat) (data : BitVec 8) : Instr :=
  match op.toNat with
  | 0x0 => .illegal0 sid data
  | 0x1 => .reset sid data
  | 0x2 => .bit sid data
  | 0x3 => .decode sid data
  | 0x4 => .rdf sid data
  | 0x5 => .rdi sid data
  | 0x6 => .rdu sid data
  | 0x7 => .illegal7 sid data
  | 0x8 => .illegal8 sid data
  | 0x9 => .illegal9 sid data
  | 0xA => .illegalA sid data
  | 0xB => .illegalB sid data
  | 0xC => .illegalC sid data
  | 0xD => .illegalD sid data
  | 0xE => .illegalE sid data
  | _ => .illegalF sid data

/-- The decoder, total on every command word: "A full decoder is `match OP`" (30_encoding.md R72). -/
def decode (w : CmdWord) : Instr := ofFields (opField w) (sidField w) (dataField w)

/-- The opcode of a command (30_encoding.md R72). -/
def Instr.opcode : Instr → Nibble
  | .reset _ _ => 0x1#4
  | .bit _ _ => 0x2#4
  | .decode _ _ => 0x3#4
  | .rdf _ _ => 0x4#4
  | .rdi _ _ => 0x5#4
  | .rdu _ _ => 0x6#4
  | .illegal0 _ _ => 0x0#4
  | .illegal7 _ _ => 0x7#4
  | .illegal8 _ _ => 0x8#4
  | .illegal9 _ _ => 0x9#4
  | .illegalA _ _ => 0xA#4
  | .illegalB _ _ => 0xB#4
  | .illegalC _ _ => 0xC#4
  | .illegalD _ _ => 0xD#4
  | .illegalE _ _ => 0xE#4
  | .illegalF _ _ => 0xF#4

/-- The command word `{OP, SID, DATA}` (30_encoding.md R70). For a well-formed command no bit of its session index is
cut off. -/
def encode (i : Instr) : CmdWord := i.opcode ++ BitVec.ofNat 4 i.sid ++ i.data

/-- The mnemonic of a command as spec/opcode_table.json spells it. -/
def Instr.mnemonic : Instr → String
  | .reset _ _ => "RESET"
  | .bit _ _ => "BIT"
  | .decode _ _ => "DECODE"
  | .rdf _ _ => "RDF"
  | .rdi _ _ => "RDI"
  | .rdu _ _ => "RDU"
  | .illegal0 _ _ => "ILLEGAL"
  | .illegal7 _ _ => "ILLEGAL"
  | .illegal8 _ _ => "ILLEGAL"
  | .illegal9 _ _ => "ILLEGAL"
  | .illegalA _ _ => "ILLEGAL"
  | .illegalB _ _ => "ILLEGAL"
  | .illegalC _ _ => "ILLEGAL"
  | .illegalD _ _ => "ILLEGAL"
  | .illegalE _ _ => "ILLEGAL"
  | .illegalF _ _ => "ILLEGAL"

/-- One row of spec/opcode_table.json: a word belongs to the row when its bits under `mask` are `pattern`. -/
structure OpcodeRow where
  mnemonic : String
  pattern : CmdWord
  mask : CmdWord
  deriving DecidableEq, Repr

/-- Whether a word belongs to a row. -/
def OpcodeRow.matches (r : OpcodeRow) (w : CmdWord) : Bool := w &&& r.mask == r.pattern

/-- spec/opcode_table.json, row by row: all 16 values of `OP` have one row. -/
def opcodeTable : List OpcodeRow :=
  [⟨"RESET", 0x1000#16, 0xF000#16⟩,
   ⟨"BIT", 0x2000#16, 0xF000#16⟩,
   ⟨"DECODE", 0x3000#16, 0xF000#16⟩,
   ⟨"RDF", 0x4000#16, 0xF000#16⟩,
   ⟨"RDI", 0x5000#16, 0xF000#16⟩,
   ⟨"RDU", 0x6000#16, 0xF000#16⟩,
   ⟨"ILLEGAL", 0x0000#16, 0xF000#16⟩,
   ⟨"ILLEGAL", 0x7000#16, 0xF000#16⟩,
   ⟨"ILLEGAL", 0x8000#16, 0xF000#16⟩,
   ⟨"ILLEGAL", 0x9000#16, 0xF000#16⟩,
   ⟨"ILLEGAL", 0xA000#16, 0xF000#16⟩,
   ⟨"ILLEGAL", 0xB000#16, 0xF000#16⟩,
   ⟨"ILLEGAL", 0xC000#16, 0xF000#16⟩,
   ⟨"ILLEGAL", 0xD000#16, 0xF000#16⟩,
   ⟨"ILLEGAL", 0xE000#16, 0xF000#16⟩,
   ⟨"ILLEGAL", 0xF000#16, 0xF000#16⟩]

/-- The command word of an instruction whose bits are `w`, `nbits` of them from the table and the rest 0
(30_encoding.md R71: a command is one 16-bit word). -/
def tableWord (nbits w : Nat) : CmdWord := BitVec.ofNat 16 (w % 2 ^ nbits)

/-- The command the decoder reads from a table row's word. A row longer than the one command length there is
(30_encoding.md R71) is no command of this block. -/
def decodeTableWord (nbits w : Nat) : Option Instr :=
  if nbits ≤ 16 then some (decode (tableWord nbits w)) else none

end Sys2Proof
end

