-- ==== Sys2Proof/Machine/State.lean ====
section
/-!
DEFINITION. The state of the block as plain data: the sessions of spec/10_state.md R20 to R38, the build parameters
of spec/00_scope.md R6 to R8, and the interface of spec/70_reset_and_hazards.md R250, R251, R260 and R261.
-/

namespace Sys2Proof.Machine

open Sys2Proof.Config

/-- The enumerated unit, a 1-bit register: 0 = MM, 1 = INCH (10_state.md R33). -/
inductive MeasUnit where
  | mm
  | inch
  deriving DecidableEq, Repr

/-- The outcome code of a command (30_encoding.md R77, 60_exceptions.md R200). -/
inductive Status where
  /-- The command completed. -/
  | success
  /-- The bit was accepted and more bits are expected. -/
  | ongoing
  /-- The bit completed the 13th nibble. -/
  | frameComplete
  /-- `SID ≥ NSESS`. -/
  | errInvalidSession
  /-- BIT on a session whose buffer is full. -/
  | errProtocolViolation
  /-- DECODE with a nibble count other than 13. -/
  | errInvalidState
  /-- DECODE of a frame with a wrong header, or of an out-of-range digit under `STRICT_BCD`. -/
  | errInvalidFrameData
  /-- An illegal opcode. -/
  | errIllegalCommand
  deriving DecidableEq, Repr

/-- A response: a status and a 32-bit data word (30_encoding.md R76). -/
structure Response where
  status : Status
  data : DataWord
  deriving DecidableEq, Repr

/-- A response whose command has been accepted and which has not been presented yet, with the number of clock edges
still to come before it is (70_reset_and_hazards.md R250 "accepted but not yet answered", R261). -/
structure Pending where
  wait : Nat
  resp : Response
  deriving DecidableEq, Repr

/-- The command port and the reset input at one rising edge of `clk` (70_reset_and_hazards.md R260). `cmdReady` is the
block's own output. The spec leaves its value open (R261), so it is read from here, where nothing constrains it. -/
structure PortCycle where
  rst : Bool
  cmdValid : Bool
  cmdReady : Bool
  cmdWord : CmdWord
  deriving DecidableEq, Repr

/-- The result registers `res[s]`: the Decoded Result (10_state.md R29 to R37). -/
structure ResultRegs where
  /-- Binary32 encoding of the signed value (R30). -/
  f32 : BitVec 32
  /-- Signed fixed-point mantissa, two's complement (R31). -/
  int : BitVec 32
  /-- Decimal exponent, the copied decimal-point nibble (R32). -/
  dp : Nibble
  /-- Enumerated unit (R33). -/
  unit : MeasUnit
  /-- The copied unit nibble (R34). -/
  rawUnit : Nibble
  /-- The sign flag, true for negative (R35). -/
  sign : Bool
  /-- A digit nibble exceeded 9 (R36). -/
  oor : Bool
  /-- A result is present (R37). -/
  valid : Bool
  deriving DecidableEq, Repr

/-- One session (10_state.md R20): session state, frame buffer and result registers. -/
structure Session where
  /-- Bits already placed in `acc`, 0..3 (R23). -/
  bitCnt : BitVec 2
  /-- The nibble being assembled (R24). -/
  acc : Nibble
  /-- Nibbles already stored, the index of the next free buffer entry (R25). -/
  nibCnt : BitVec 4
  /-- The frame buffer `buf[s][0..12]` (R27). -/
  buf : Vector Nibble frameNibbles
  /-- The result registers (R29). -/
  res : ResultRegs
  deriving DecidableEq, Repr

/-- The whole machine.
* `sessions`: `sess[s]`, `buf[s]` and `res[s]` for `s = 0 .. NSESS−1`. `NSESS` is this list's length (R6, R20).
* `params`: `STRICT_BCD` and `LAT`, fixed when the block is built (R7, R8, R252).
* `rstSeen`: `rst` has been asserted since power-up (70_reset_and_hazards.md R251).
* `port`: what the command port and `rst` carry at the coming clock edges, the nearest first (R260). At the edges
  after its end no command is offered and `rst` is low.
* `inFlight`: responses accepted and not yet presented, oldest first (R250, R261).
* `rsp`: the response channel in the current cycle. `none` is `rsp_valid` = 0 (R260). -/
structure State where
  sessions : List Session
  params : Params
  rstSeen : Bool
  port : List PortCycle
  inFlight : List Pending
  rsp : Option Response
  deriving DecidableEq, Repr

/-- The block has no fault: "Errors are not traps" and each one is a normal response (60_exceptions.md R202). -/
inductive Fault where
  deriving DecidableEq, Repr

/-- Why a step gives no next state. -/
inductive Refusal where
  /-- Raised by `exec` for a command whose meaning is not written yet. No arm raises it. Safe. -/
  | notModelled (mnemonic : String)
  /-- Raised by `step` for a command accepted before the first `rst`: "A model refuses it and does not give it a value"
  (70_reset_and_hazards.md R251). Safe. -/
  | commandBeforeReset
  deriving DecidableEq, Repr

/-- The cleared result registers (10_state.md R38). -/
def ResultRegs.zeroed : ResultRegs :=
  { f32 := 0#32, int := 0#32, dp := 0#4, unit := .mm, rawUnit := 0#4, sign := false, oor := false, valid := false }

/-- The "identical zeroed state" of a session (10_state.md R38). -/
def Session.zeroed : Session :=
  { bitCnt := 0#2, acc := 0#4, nibCnt := 0#4, buf := Vector.replicate frameNibbles 0#4, res := .zeroed }

/-- A block of `nsess` sessions built with `p`, right after hardware reset (70_reset_and_hazards.md R250): every session
zeroed, no command in flight, no response presented, nothing offered on the port. -/
def State.resetOf (nsess : Nat) (p : Params) : State :=
  { sessions := List.replicate nsess Session.zeroed, params := p, rstSeen := true,
    port := [], inFlight := [], rsp := none }

/-- The machine right after reset, at the spec's default parameters (R6, R7; assumption log 1). -/
def State.reset : State := State.resetOf defaultNsess defaultParams

/-- `NSESS`: the number of sessions the block holds (00_scope.md R6, 10_state.md R20). -/
def State.nsess (s : State) : Nat := s.sessions.length

end Sys2Proof.Machine
end

