-- ==== Sys2Proof/Machine/Float.lean ====
section
/-!
DEFINITION. IEEE 754 binary32 as DECODE uses it: `RNE32`, `neg32` and the reading of a pattern as an exact number
(spec/00_scope.md notation and R10; spec/20_memory.md R56; spec/93_implementation_defined.md G1 to G4).
-/

namespace Sys2Proof.Machine

/-- `num / den` rounded to the nearest integer, ties to the even one (roundTiesToEven, 93_implementation_defined.md G2). -/
def roundDivEven (num den : Nat) : Nat :=
  let q := num / den
  let r := num % den
  if 2 * r < den then q else if den < 2 * r then q + 1 else q + q % 2

/-- The biased exponent less one of the binade that `num / den` lies in: `⌊log2 (num / den)⌋ + 126`, and 0 for every
value below the smallest normal number, whose spacing the subnormals share. -/
def binade (num den : Nat) : Nat := Nat.log2 (num * 2 ^ 126 / den)

/-- `RNE32(num / den)` as its 32 bits, for `den > 0`: the significand in units of `2 ^ (binade − 149)` is rounded once and
added below the exponent, so that a carry out of it raises the exponent. Above the largest finite number the
result is +∞, which no quotient of DECODE reaches (41_decoder.md R143). -/
def rne32 (num den : Nat) : BitVec 32 :=
  let t := binade num den
  BitVec.ofNat 32 (min (t * 2 ^ 23 + roundDivEven (num * 2 ^ 149) (den * 2 ^ t)) 0x7F800000)

/-- `neg32`: the sign bit inverted (00_scope.md notation). -/
def neg32 (f : BitVec 32) : BitVec 32 := f ^^^ 0x80000000#32

/-- The biased exponent, bits 30:23 (20_memory.md R56). -/
def f32Exponent (f : BitVec 32) : Nat := (f.extractLsb' 23 8).toNat

/-- The fraction, bits 22:0 (20_memory.md R56). -/
def f32Fraction (f : BitVec 32) : Nat := (f.extractLsb' 0 23).toNat

/-- The magnitude of a finite binary32 number, as a multiple of `2 ^ (−149)`, the spacing of the smallest ones. -/
def f32Scaled (f : BitVec 32) : Nat :=
  if f32Exponent f = 0 then f32Fraction f else (2 ^ 23 + f32Fraction f) * 2 ^ (f32Exponent f - 1)

end Sys2Proof.Machine
end

