-- ==== Sys2Proof/Machine/Flags.lean ====
section
/-!
DEFINITION. The codes and flags of the block: the status encoding (spec/30_encoding.md R77), the unit bit (spec/10_state.md
R33), and the flags DECODE computes from a frame (spec/41_decoder.md R132, R134, R137, R139).
-/

namespace Sys2Proof.Machine

open Sys2Proof.Config

/-- The 4-bit status encoding (30_encoding.md R77). -/
def Status.code : Status → BitVec 4
  | .success => 0x0#4
  | .ongoing => 0x1#4
  | .frameComplete => 0x2#4
  | .errInvalidSession => 0x8#4
  | .errProtocolViolation => 0x9#4
  | .errInvalidState => 0xA#4
  | .errInvalidFrameData => 0xB#4
  | .errIllegalCommand => 0xF#4

/-- "`status[3]` = 1 means an error" (30_encoding.md R77). -/
def Status.isError (st : Status) : Bool := st.code.getLsbD 3

/-- The register bit of a unit: 0 = MM, 1 = INCH (10_state.md R33). -/
def MeasUnit.bit : MeasUnit → BitVec 1
  | .mm => 0#1
  | .inch => 1#1

/-- Header validation: entries 0..3 each equal 0xF (41_decoder.md R132). -/
def headerOk (buf : Vector Nibble frameNibbles) : Bool :=
  buf[0] == headerNibble && buf[1] == headerNibble && buf[2] == headerNibble && buf[3] == headerNibble

/-- A digit nibble outside 0..9 (41_decoder.md R134). -/
def digitOutOfRange (v : Nibble) : Bool := decide (9 < v.toNat)

/-- `oor`: one of entries 5..10 is 10 to 15 (41_decoder.md R134). -/
def outOfRange (buf : Vector Nibble frameNibbles) : Bool :=
  digitOutOfRange buf[5] || digitOutOfRange buf[6] || digitOutOfRange buf[7] ||
    digitOutOfRange buf[8] || digitOutOfRange buf[9] || digitOutOfRange buf[10]

/-- `neg = buf[s][4][3]`: bit 3 of the sign nibble, its other bits ignored (41_decoder.md R137, 90_conflicts.md C6). -/
def signFlag (buf : Vector Nibble frameNibbles) : Bool := buf[4].getLsbD 3

/-- Millimetres exactly for unit nibble 0, inches for any other (41_decoder.md R139). -/
def unitOf (u : Nibble) : MeasUnit := if u = 0#4 then .mm else .inch

end Sys2Proof.Machine
end

