-- ==== Sys2Proof/Machine/Ops.lean ====
section
/-!
DEFINITION. The shared operations: the frame buffer's two primitives (spec/20_memory.md R51), answering a command and
reporting an error (spec/30_encoding.md R76, spec/60_exceptions.md R200 to R205), running a command on one session
(R59), hardware reset (spec/70_reset_and_hazards.md R250) and the clock edge of the interface (R260, R261).
-/

namespace Sys2Proof.Machine

open Sys2Proof.Config

/-- `BufWrite(s, i, v)`: one whole entry, at the index `nib_cnt` selects. BIT checks `i ≤ 12` first, so a write outside
the buffer does not happen (20_memory.md R51). -/
def bufWrite (buf : Vector Nibble frameNibbles) (i : BitVec 4) (v : Nibble) : Vector Nibble frameNibbles :=
  buf.setIfInBounds i.toNat v

/-- `BufRead(s, i)` (20_memory.md R51). -/
def bufRead (buf : Vector Nibble frameNibbles) (i : Fin frameNibbles) : Nibble := buf[i]

/-- `respond(status, data)`: the command's one response joins those in flight and is due after `LAT` clock edges
(30_encoding.md R76, 70_reset_and_hazards.md R261). -/
def State.respond (s : State) (r : Response) : State :=
  { s with inFlight := s.inFlight ++ [⟨s.params.lat, r⟩] }

/-- The response of a command that ends in an error: its data is 0 (30_encoding.md R78, 60_exceptions.md R200). -/
def errorResponse (st : Status) : Response := ⟨st, 0x00000000#32⟩

/-- `raise <Status>`: an error is a status in a normal response, no state of any session changes, nothing is saved and
control goes nowhere (00_scope.md notation, 60_exceptions.md R202 to R204). -/
def State.raise (s : State) (st : Status) : State := s.respond (errorResponse st)

/-- Replaces session `sid`. -/
def State.setSession (s : State) (sid : Nat) (x : Session) : State :=
  { s with sessions := s.sessions.set sid x }

/-- Runs a command on session `sid`: a session that does not exist is the error ERR_INVALID_SESSION (30_encoding.md R73,
60_exceptions.md R205 step 2). Otherwise `f` gives the session's new contents and the response from the session's old
contents alone, and no other session is read or written (20_memory.md R59). -/
def State.onSession (s : State) (sid : Nat) (f : Session → Session × Response) :
    Host.Outcome State Fault Refusal :=
  match s.sessions[sid]? with
  | none => .next (s.raise .errInvalidSession)
  | some x => .next ((s.setSession sid (f x).1).respond (f x).2)

/-- An illegal command: ERR_ILLEGAL_COMMAND and no state change, the session not examined (30_encoding.md R74,
60_exceptions.md R205 step 1). -/
def State.illegal (s : State) : Host.Outcome State Fault Refusal := .next (s.raise .errIllegalCommand)

/-- Hardware reset: every session zeroed, every command accepted but not answered discarded with no response
(70_reset_and_hazards.md R250). The number of sessions and the parameters are fixed when the block is built. -/
def State.hardwareReset (s : State) : State :=
  { s with sessions := s.sessions.map fun _ => Session.zeroed, rstSeen := true, inFlight := [], rsp := none }

/-- One clock edge less to wait. -/
def Pending.tick (p : Pending) : Pending := { p with wait := p.wait - 1 }

/-- The rest of a rising edge of `clk`, after the effect of a command accepted on it: every response in flight is one
cycle nearer, and the oldest is presented for exactly one cycle when its wait is over, in acceptance order
(70_reset_and_hazards.md R260, R261). -/
def State.clock (s : State) : State :=
  match s.inFlight.map Pending.tick with
  | ⟨0, r⟩ :: rest => { s with inFlight := rest, rsp := some r }
  | q => { s with inFlight := q, rsp := none }

/-- "A command is accepted on a rising edge of `clk` where `cmd_valid` and `cmd_ready` are both 1"
(70_reset_and_hazards.md R260). -/
def PortCycle.accepts (c : PortCycle) : Bool := c.cmdValid && c.cmdReady

/-- A clock edge on which the block accepts `w`, with `rst` low. -/
def PortCycle.command (w : CmdWord) : PortCycle := { rst := false, cmdValid := true, cmdReady := true, cmdWord := w }

/-- `rsp_valid` (70_reset_and_hazards.md R260). -/
def State.rspValid (s : State) : Bool := s.rsp.isSome

/-- `rsp_status` while `rsp_valid` = 1 (70_reset_and_hazards.md R260, 30_encoding.md R77). -/
def State.rspStatus (s : State) : Option (BitVec 4) := s.rsp.map fun r => r.status.code

/-- `rsp_data` while `rsp_valid` = 1 (70_reset_and_hazards.md R260, 30_encoding.md R78). -/
def State.rspData (s : State) : Option DataWord := s.rsp.map fun r => r.data

end Sys2Proof.Machine
end

