-- ==== Sys2Proof/Machine/Operands.lean ====
section
/-!
DEFINITION. The operand of BIT, the values DECODE computes from a frame and the info word of RDU
(spec/30_encoding.md R73 and R79; spec/41_decoder.md R135 to R139).
-/

namespace Sys2Proof.Machine

open Sys2Proof.Config

/-- The bit value `b = DATA[0]`, `DATA[7:1]` ignored (30_encoding.md R73, 40_accumulator.md R113). -/
def bitOperand (data : BitVec 8) : Bool := data.getLsbD 0

/-- `acc` with bit `k` replaced by `b` (40_accumulator.md R110, R112). -/
def placeBit (acc : Nibble) (k : BitVec 2) (b : Bool) : Nibble :=
  acc &&& ~~~(1#4 <<< k.toNat) ||| (BitVec.ofBool b).setWidth 4 <<< k.toNat

/-- The magnitude: the six digit nibbles, most significant first, folded by `M*10 + digit` (41_decoder.md R135). -/
def magnitude (buf : Vector Nibble frameNibbles) : Nat :=
  ([5, 6, 7, 8, 9, 10] : List (Fin frameNibbles)).foldl (fun m i => m * 10 + (bufRead buf i).toNat) 0

/-- `int32(neg ? −M : M)` (41_decoder.md R138). -/
def signedMantissa (neg : Bool) (m : Nat) : BitVec 32 :=
  BitVec.ofInt 32 (if neg then -(m : Int) else (m : Int))

/-- `bits32(neg ? neg32(RNE32(M / 10^dp)) : RNE32(M / 10^dp))`: the sign is applied after scaling (41_decoder.md R136, R138). -/
def signedFloat (neg : Bool) (m : Nat) (dp : Nibble) : BitVec 32 :=
  let mag := rne32 m (10 ^ dp.toNat)
  if neg then neg32 mag else mag

/-- The eight result registers a successful DECODE writes together (41_decoder.md R130, R141). -/
def decodedResult (buf : Vector Nibble frameNibbles) : ResultRegs :=
  { f32 := signedFloat (signFlag buf) (magnitude buf) (bufRead buf 11)
    int := signedMantissa (signFlag buf) (magnitude buf)
    dp := bufRead buf 11
    unit := unitOf (bufRead buf 12)
    rawUnit := bufRead buf 12
    sign := signFlag buf
    oor := outOfRange buf
    valid := true }

/-- The info word of RDU: `zext_32({valid, 0b0, oor, sign, dp, raw_unit, 0b000, unit})` (30_encoding.md R79). -/
def infoWord (r : ResultRegs) : DataWord :=
  (BitVec.ofBool r.valid ++ 0#1 ++ BitVec.ofBool r.oor ++ BitVec.ofBool r.sign ++ r.dp ++ r.rawUnit ++ 0#3 ++
    r.unit.bit).setWidth 32

end Sys2Proof.Machine
end

