-- ==== Sys2Proof/Machine/Accumulator.lean ====
section
/-!
DEFINITION. The bit accumulator commands RESET and BIT (spec/40_accumulator.md).
-/

namespace Sys2Proof.Machine

open Sys2Proof.Config

/-- RESET on an existing session: the whole session zeroed, result registers included, in every state of it
(40_accumulator.md R100, R101; 90_conflicts.md C2). -/
def Session.doReset (_ : Session) : Session × Response := (Session.zeroed, ⟨.success, 0x00000000#32⟩)

/-- BIT on an existing session (40_accumulator.md R110): refused when the buffer is full, otherwise the bit is placed at
position `bit_cnt`, and the fourth bit of a nibble appends the nibble to the buffer. -/
def Session.acceptBit (x : Session) (b : Bool) : Session × Response :=
  if x.nibCnt.toNat < frameNibbles ∧ x.bitCnt.toNat < bitsPerNibble then
    let a := placeBit x.acc x.bitCnt b
    if x.bitCnt = 3#2 then
      ({ x with buf := bufWrite x.buf x.nibCnt a, acc := 0#4, bitCnt := 0#2, nibCnt := x.nibCnt + 1#4 },
        ⟨if x.nibCnt + 1#4 = 13#4 then .frameComplete else .ongoing, 0x00000000#32⟩)
    else
      ({ x with acc := a, bitCnt := x.bitCnt + 1#2 }, ⟨.ongoing, 0x00000000#32⟩)
  else (x, errorResponse .errProtocolViolation)

/-- RESET (40_accumulator.md R100). -/
def execReset (sid : Nat) (_data : BitVec 8) (s : State) : Host.Outcome State Fault Refusal :=
  s.onSession sid Session.doReset

/-- BIT (40_accumulator.md R110). -/
def execBit (sid : Nat) (data : BitVec 8) (s : State) : Host.Outcome State Fault Refusal :=
  s.onSession sid fun x => x.acceptBit (bitOperand data)

end Sys2Proof.Machine
end

