-- ==== Sys2Proof/Machine/Decoder.lean ====
section
/-!
DEFINITION. The frame decoder command DECODE (spec/41_decoder.md).
-/

namespace Sys2Proof.Machine

open Sys2Proof.Config

/-- DECODE on an existing session, its checks in the order of 60_exceptions.md R205: the count, the header, and under
`STRICT_BCD` the digits. Only a success writes, and it writes the result registers alone (41_decoder.md R130, R140 to
R142). -/
def Session.decodeFrame (strict : Bool) (x : Session) : Session × Response :=
  if x.nibCnt ≠ 13#4 then (x, errorResponse .errInvalidState)
  else if ¬headerOk x.buf then (x, errorResponse .errInvalidFrameData)
  else if strict ∧ outOfRange x.buf then (x, errorResponse .errInvalidFrameData)
  else ({ x with res := decodedResult x.buf }, ⟨.success, 0x00000000#32⟩)

/-- DECODE (41_decoder.md R130). -/
def execDecode (sid : Nat) (_data : BitVec 8) (s : State) : Host.Outcome State Fault Refusal :=
  s.onSession sid (Session.decodeFrame s.params.strictBcd)

end Sys2Proof.Machine
end

