-- ==== Sys2Proof/Machine/Illegal.lean ====
section
/-!
DEFINITION. The ten illegal opcodes, 0x0 and 0x7 to 0xF (spec/30_encoding.md R74).
-/

namespace Sys2Proof.Machine

/-- Opcode 0x0 (30_encoding.md R74). -/
def execIllegal0 (_sid : Nat) (_data : BitVec 8) (s : State) : Host.Outcome State Fault Refusal := s.illegal

/-- Opcode 0x7 (30_encoding.md R74). -/
def execIllegal7 (_sid : Nat) (_data : BitVec 8) (s : State) : Host.Outcome State Fault Refusal := s.illegal

/-- Opcode 0x8 (30_encoding.md R74). -/
def execIllegal8 (_sid : Nat) (_data : BitVec 8) (s : State) : Host.Outcome State Fault Refusal := s.illegal

/-- Opcode 0x9 (30_encoding.md R74). -/
def execIllegal9 (_sid : Nat) (_data : BitVec 8) (s : State) : Host.Outcome State Fault Refusal := s.illegal

/-- Opcode 0xA (30_encoding.md R74). -/
def execIllegalA (_sid : Nat) (_data : BitVec 8) (s : State) : Host.Outcome State Fault Refusal := s.illegal

/-- Opcode 0xB (30_encoding.md R74). -/
def execIllegalB (_sid : Nat) (_data : BitVec 8) (s : State) : Host.Outcome State Fault Refusal := s.illegal

/-- Opcode 0xC (30_encoding.md R74). -/
def execIllegalC (_sid : Nat) (_data : BitVec 8) (s : State) : Host.Outcome State Fault Refusal := s.illegal

/-- Opcode 0xD (30_encoding.md R74). -/
def execIllegalD (_sid : Nat) (_data : BitVec 8) (s : State) : Host.Outcome State Fault Refusal := s.illegal

/-- Opcode 0xE (30_encoding.md R74). -/
def execIllegalE (_sid : Nat) (_data : BitVec 8) (s : State) : Host.Outcome State Fault Refusal := s.illegal

/-- Opcode 0xF (30_encoding.md R74). -/
def execIllegalF (_sid : Nat) (_data : BitVec 8) (s : State) : Host.Outcome State Fault Refusal := s.illegal

end Sys2Proof.Machine
end

