-- ==== Sys2Proof/Machine/ResultAccess.lean ====
section
/-!
DEFINITION. The result access commands RDF, RDI and RDU (spec/42_result_access.md).
-/

namespace Sys2Proof.Machine

/-- A read command on an existing session: SUCCESS with the word `read` gives, in every state of the session, and no
state change (42_result_access.md R173, 20_memory.md R57). -/
def Session.readResult (read : ResultRegs → DataWord) (x : Session) : Session × Response :=
  (x, ⟨.success, read x.res⟩)

/-- RDF: the floating-point value (42_result_access.md R170). -/
def execRdf (sid : Nat) (_data : BitVec 8) (s : State) : Host.Outcome State Fault Refusal :=
  s.onSession sid (Session.readResult ResultRegs.f32)

/-- RDI: the signed fixed-point mantissa (42_result_access.md R171). -/
def execRdi (sid : Nat) (_data : BitVec 8) (s : State) : Host.Outcome State Fault Refusal :=
  s.onSession sid (Session.readResult ResultRegs.int)

/-- RDU: the info word (42_result_access.md R172). -/
def execRdu (sid : Nat) (_data : BitVec 8) (s : State) : Host.Outcome State Fault Refusal :=
  s.onSession sid (Session.readResult infoWord)

end Sys2Proof.Machine
end

