-- ==== Sys2Proof/Machine/Dispatch.lean ====
section
/-!
DEFINITION. `exec`: the effect of one command, one arm per constructor of Instr.
-/

namespace Sys2Proof.Machine

def exec (i : Instr) (s : State) : Host.Outcome State Fault Refusal :=
  match i with
  | .reset sid data => Sys2Proof.Machine.execReset sid data s
  | .bit sid data => Sys2Proof.Machine.execBit sid data s
  | .decode sid data => Sys2Proof.Machine.execDecode sid data s
  | .rdf sid data => Sys2Proof.Machine.execRdf sid data s
  | .rdi sid data => Sys2Proof.Machine.execRdi sid data s
  | .rdu sid data => Sys2Proof.Machine.execRdu sid data s
  | .illegal0 sid data => Sys2Proof.Machine.execIllegal0 sid data s
  | .illegal7 sid data => Sys2Proof.Machine.execIllegal7 sid data s
  | .illegal8 sid data => Sys2Proof.Machine.execIllegal8 sid data s
  | .illegal9 sid data => Sys2Proof.Machine.execIllegal9 sid data s
  | .illegalA sid data => Sys2Proof.Machine.execIllegalA sid data s
  | .illegalB sid data => Sys2Proof.Machine.execIllegalB sid data s
  | .illegalC sid data => Sys2Proof.Machine.execIllegalC sid data s
  | .illegalD sid data => Sys2Proof.Machine.execIllegalD sid data s
  | .illegalE sid data => Sys2Proof.Machine.execIllegalE sid data s
  | .illegalF sid data => Sys2Proof.Machine.execIllegalF sid data s

end Sys2Proof.Machine
end

