-- ==== Sys2Proof/Machine/Step.lean ====
section
/-!
DEFINITION. One step: one rising edge of `clk` (spec/70_reset_and_hazards.md R260 to R262). A command accepted on the edge
is one atomic step on the state the previous one left (spec/20_memory.md R52).
-/

namespace Sys2Proof.Machine

/-- The edge's clock work after a command's effect. -/
def clockAfter : Host.Outcome State Fault Refusal → Host.Outcome State Fault Refusal
  | .next t => .next t.clock
  | .fault r => .fault r
  | .refused r => .refused r

/-- One rising edge of `clk`. Hardware reset comes first (R250). A command is executed when it is accepted (R260) and `rst`
has been asserted before (R251). An edge with neither only moves the responses on. Before the first reset the spec gives
neither the session registers nor the response channel: that such an edge keeps the registers (assumption log 7) and moves
the responses on as after a reset, with `rsp_valid` = 0 when none is in flight (assumption log 20), is a DESIGN CHOICE. -/
def step (s : State) : Host.Outcome State Fault Refusal :=
  match s.port with
  | [] => .next s.clock
  | c :: rest =>
    if c.rst then .next { s with port := rest }.hardwareReset
    else if c.accepts then
      if s.rstSeen then clockAfter (exec (decode c.cmdWord) { s with port := rest })
      else .refused .commandBeforeReset
    else .next { s with port := rest }.clock

/-- The state in which the next edge accepts the given command word, all else unchanged: the host offers it and the block
is ready (assumption log 2). -/
def State.withFetchWord (s : State) (nbits w : Nat) : State :=
  { s with port := PortCycle.command (tableWord nbits w) :: s.port }

end Sys2Proof.Machine
end

