-- ==== Sys2Proof/Machine/Assembler.lean ====
section
/-!
DEFINITION. The assembler's lines and the command words they stand for (spec/30_encoding.md R80, R81). The block itself
sees command words alone; this file says what a host's program text sends.
-/

namespace Sys2Proof.Machine

open Sys2Proof.Config

/-- One line of assembly (30_encoding.md R80) or one pseudo-instruction (R81). `s` is a session index 0..15. -/
inductive AsmLine where
  | reset (s : Fin 16)
  | bit (s : Fin 16) (b : BitVec 8)
  | decode (s : Fin 16)
  | rdf (s : Fin 16)
  | rdi (s : Fin 16)
  | rdu (s : Fin 16)
  | word (w : CmdWord)
  | nib (s : Fin 16) (v : Nibble)
  | frame (s : Fin 16) (ns : Vector Nibble frameNibbles)
  | meas (s : Fin 16) (negative : Bool) (ds : Vector (Fin 10) digits) (p u : Nibble)
  deriving DecidableEq, Repr

/-- `BIT s, v[k]`: the canonical operand, 0 or 1 (30_encoding.md R80, R81). -/
def bitCommand (sid : Nat) (v : Nibble) (k : Nat) : Instr := .bit sid ((BitVec.ofBool (v.getLsbD k)).setWidth 8)

/-- `NIB s, v`: the four bits of `v`, least significant first (30_encoding.md R81). -/
def nibCommands (sid : Nat) (v : Nibble) : List Instr :=
  [bitCommand sid v 0, bitCommand sid v 1, bitCommand sid v 2, bitCommand sid v 3]

/-- `FRAME s, n0, ..., n12`: 52 BIT commands, in index order (30_encoding.md R81). -/
def frameCommands (sid : Nat) (ns : Vector Nibble frameNibbles) : List Instr := ns.toList.flatMap (nibCommands sid)

/-- The 13 nibbles of `MEAS s, sg, d5d6d7d8d9d10, p, u` (30_encoding.md R81). -/
def measFrame (negative : Bool) (ds : Vector (Fin 10) digits) (p u : Nibble) : Vector Nibble frameNibbles :=
  #v[0xF#4, 0xF#4, 0xF#4, 0xF#4, if negative then 0x8#4 else 0x0#4,
    BitVec.ofNat 4 ds[0], BitVec.ofNat 4 ds[1], BitVec.ofNat 4 ds[2],
    BitVec.ofNat 4 ds[3], BitVec.ofNat 4 ds[4], BitVec.ofNat 4 ds[5], p, u]

/-- The commands a line stands for, in issue order. `.word w` is the word unchanged (30_encoding.md R80). `BIT s, b` puts all
eight bits of `b` into DATA: a DESIGN CHOICE for `b` of 2 to 255, on which R80 and R75 differ (assumption log 19). -/
def AsmLine.commands : AsmLine → List Instr
  | .reset s => [.reset s 0#8]
  | .bit s b => [.bit s b]
  | .decode s => [.decode s 0#8]
  | .rdf s => [.rdf s 0#8]
  | .rdi s => [.rdi s 0#8]
  | .rdu s => [.rdu s 0#8]
  | .word w => [Sys2Proof.decode w]
  | .nib s v => nibCommands s v
  | .frame s ns => frameCommands s ns
  | .meas s negative ds p u => frameCommands s (measFrame negative ds p u)

/-- The command words of a line, in issue order. -/
def AsmLine.words (l : AsmLine) : List CmdWord := l.commands.map encode

/-- A program's words, line after line. -/
def assemble (ls : List AsmLine) : List CmdWord := ls.flatMap AsmLine.words

/-- The line's text: `MNEMONIC operands`, numbers in decimal (30_encoding.md R80, R81). -/
def AsmLine.text : AsmLine → String
  | .reset s => "RESET " ++ Nat.repr s
  | .bit s b => "BIT " ++ Nat.repr s ++ ", " ++ Nat.repr b.toNat
  | .decode s => "DECODE " ++ Nat.repr s
  | .rdf s => "RDF " ++ Nat.repr s
  | .rdi s => "RDI " ++ Nat.repr s
  | .rdu s => "RDU " ++ Nat.repr s
  | .word w => ".word " ++ Nat.repr w.toNat
  | .nib s v => "NIB " ++ Nat.repr s ++ ", " ++ Nat.repr v.toNat
  | .frame s ns => "FRAME " ++ Nat.repr s ++ ns.toList.foldl (fun acc v => acc ++ ", " ++ Nat.repr v.toNat) ""
  | .meas s negative ds p u =>
    "MEAS " ++ Nat.repr s ++ (if negative then ", -, " else ", +, ") ++
      ds.toList.foldl (fun acc d => acc ++ Nat.repr d) "" ++ ", " ++ Nat.repr p.toNat ++ ", " ++ Nat.repr u.toNat

/-- Six decimal digits of `m`, most significant first (41_decoder.md R145). -/
def decimalDigits (m : Nat) : Vector (Fin 10) digits :=
  #v[Fin.ofNat 10 (m / 100000), Fin.ofNat 10 (m / 10000), Fin.ofNat 10 (m / 1000),
    Fin.ofNat 10 (m / 100), Fin.ofNat 10 (m / 10), Fin.ofNat 10 m]

end Sys2Proof.Machine
end

