-- ==== Sys2Proof/Safety.lean ====
section
/-!
DEFINITION. What claims are stated with: the invariants of reachable states (spec/10_state.md R39), what a command may touch
beside its session (spec/20_memory.md R59), and running commands one after another (R52).
-/

namespace Sys2Proof.Machine

open Sys2Proof.Config

/-- The invariants of one session, in the order of 10_state.md R39. -/
structure Session.Inv (x : Session) : Prop where
  count : x.nibCnt.toNat ≤ 13
  accHighClear : ∀ k : Fin 4, x.bitCnt.toNat ≤ k → x.acc.getLsbD k = false
  fullIdle : x.nibCnt = 13#4 → x.bitCnt = 0#2 ∧ x.acc = 0#4
  tailClear : ∀ i : Fin frameNibbles, x.nibCnt.toNat ≤ i → x.buf[i] = 0#4
  noResult : x.res.valid = false → x.res = ResultRegs.zeroed
  result : x.res.valid = true → x.nibCnt = 13#4 ∧ x.res = decodedResult x.buf

/-- While a result is present "the buffer holds a frame that passes every DECODE check" (41_decoder.md R140). -/
def Session.ResultFrameAccepted (strict : Bool) (x : Session) : Prop :=
  x.res.valid = true → headerOk x.buf = true ∧ ¬(strict = true ∧ outOfRange x.buf = true)

/-- The invariant of the machine: the parameter bounds of 00_scope.md R6 and R8, a reset that has happened (70_reset_and_hazards.md
R251), the invariants of every session, and responses in flight that fall due one by one within `LAT` edges (R261). -/
structure State.Inv (s : State) : Prop where
  sessionCount : 1 ≤ s.nsess ∧ s.nsess ≤ maxSessions
  latPositive : 1 ≤ s.params.lat
  wasReset : s.rstSeen = true
  sessionsOk : ∀ x ∈ s.sessions, x.Inv ∧ x.ResultFrameAccepted s.params.strictBcd
  waitsRise : (s.inFlight.map Pending.wait).Pairwise (· < ·)
  waitsDue : ∀ p ∈ s.inFlight, 1 ≤ p.wait ∧ p.wait < s.params.lat

/-- Nothing but session `sid` and the responses in flight may differ: the other sessions, their number, the parameters,
the port, the response channel and the reset record are the same. -/
structure ChangesOnlySession (sid : Nat) (s t : State) : Prop where
  others : ∀ k, k ≠ sid → t.sessions[k]? = s.sessions[k]?
  nsess : t.nsess = s.nsess
  params : t.params = s.params
  rstSeen : t.rstSeen = s.rstSeen
  port : t.port = s.port
  rsp : t.rsp = s.rsp

/-- The command's one response is `r`, due after `LAT` edges, behind the responses of earlier commands. -/
def Answers (s t : State) (r : Response) : Prop := t.inFlight = s.inFlight ++ [⟨s.params.lat, r⟩]

/-- Commands one after another, each a whole atomic step on the state the one before left (20_memory.md R52), with no
clock edge between them. -/
def execAll : List Instr → State → Host.Outcome State Fault Refusal
  | [], s => .next s
  | i :: is, s =>
    match exec i s with
    | .next t => execAll is t
    | .fault r => .fault r
    | .refused r => .refused r

/-- The digit sum of 41_decoder.md R135 in closed form, `Σ buf[i] · 10^(10−i)`. -/
def digitSum (buf : Vector Nibble frameNibbles) : Nat :=
  buf[5].toNat * 100000 + buf[6].toNat * 10000 + buf[7].toNat * 1000 + buf[8].toNat * 100 +
    buf[9].toNat * 10 + buf[10].toNat

/-- The statuses a command may return (30_encoding.md R77, 60_exceptions.md R200). -/
def allowedStatuses : Instr → List Status
  | .reset _ _ | .rdf _ _ | .rdi _ _ | .rdu _ _ => [.success, .errInvalidSession]
  | .bit _ _ => [.ongoing, .frameComplete, .errInvalidSession, .errProtocolViolation]
  | .decode _ _ => [.success, .errInvalidSession, .errInvalidState, .errInvalidFrameData]
  | .illegal0 _ _ | .illegal7 _ _ | .illegal8 _ _ | .illegal9 _ _ | .illegalA _ _ | .illegalB _ _ | .illegalC _ _
  | .illegalD _ _ | .illegalE _ _ | .illegalF _ _ => [.errIllegalCommand]

/-- RDF, RDI and RDU, the commands whose success carries data (30_encoding.md R78). -/
def isRead : Instr → Bool
  | .rdf _ _ | .rdi _ _ | .rdu _ _ => true
  | .reset _ _ | .bit _ _ | .decode _ _ => false
  | .illegal0 _ _ | .illegal7 _ _ | .illegal8 _ _ | .illegal9 _ _ | .illegalA _ _ | .illegalB _ _ | .illegalC _ _
  | .illegalD _ _ | .illegalE _ _ | .illegalF _ _ => false

end Sys2Proof.Machine
end

