-- ==== Sys2Proof/Certificates/Slice0/Obligations.lean ====
section
/-!
DEFINITION. The statements for the provers, from the numbered rules of spec/. A name `s` is a state, `x` a session of it
before a command and `y` the same session after.
-/

open Sys2Proof Sys2Proof.Config Sys2Proof.Machine

/-! ### Encoding -/

/-- R82: the words of the lines written out there, and the readings of the words written there with `.word`. The one word
of each further illegal opcode (R74) is read too. -/
def Obligations.WrittenWordsAreTheirCommands : Prop :=
  (AsmLine.reset 0).words = [0x1000#16] ∧ (AsmLine.bit 0 1#8).words = [0x2001#16] ∧
  (AsmLine.bit 0 0#8).words = [0x2000#16] ∧ (AsmLine.bit 3 1#8).words = [0x2301#16] ∧
  (AsmLine.decode 0).words = [0x3000#16] ∧ (AsmLine.rdf 0).words = [0x4000#16] ∧
  (AsmLine.rdi 1).words = [0x5100#16] ∧ (AsmLine.rdu 0).words = [0x6000#16] ∧
  (AsmLine.nib 0 0xF#4).words = [0x2001#16, 0x2001#16, 0x2001#16, 0x2001#16] ∧
  (AsmLine.nib 0 0x8#4).words = [0x2000#16, 0x2000#16, 0x2000#16, 0x2001#16] ∧
  (AsmLine.nib 0 0x2#4).words = [0x2000#16, 0x2001#16, 0x2000#16, 0x2000#16] ∧
  decode 0x1000#16 = .reset 0 0x00#8 ∧ decode 0x2001#16 = .bit 0 0x01#8 ∧ decode 0x2000#16 = .bit 0 0x00#8 ∧
  decode 0x2301#16 = .bit 3 0x01#8 ∧ decode 0x3000#16 = .decode 0 0x00#8 ∧ decode 0x4000#16 = .rdf 0 0x00#8 ∧
  decode 0x5100#16 = .rdi 1 0x00#8 ∧ decode 0x6000#16 = .rdu 0 0x00#8 ∧
  decode 0x2003#16 = .bit 0 0x03#8 ∧ bitOperand 0x03#8 = true ∧
  decode 0x0000#16 = .illegal0 0 0x00#8 ∧ decode 0x7000#16 = .illegal7 0 0x00#8 ∧
  decode 0x8123#16 = .illegal8 1 0x23#8 ∧ decode 0x9F00#16 = .illegal9 15 0x00#8 ∧
  decode 0xA001#16 = .illegalA 0 0x01#8 ∧ decode 0xB000#16 = .illegalB 0 0x00#8 ∧
  decode 0xC000#16 = .illegalC 0 0x00#8 ∧ decode 0xD000#16 = .illegalD 0 0x00#8 ∧
  decode 0xE0FF#16 = .illegalE 0 0xFF#8 ∧ decode 0xFFFF#16 = .illegalF 15 0xFF#8

/-- Decoding an encoded well-formed command gives it back, every operand bit with it (R70, R72, R73). -/
def Obligations.DecodeEncodeGivesCommandBack : Prop :=
  ∀ i : Instr, i.WellFormed → decode (encode i) = i

/-- Every command word decodes to a well-formed command whose encoding is the word again (R70 to R72). -/
def Obligations.EncodeDecodeGivesWordBack : Prop :=
  ∀ w : CmdWord, (decode w).WellFormed ∧ encode (decode w) = w

/-- Every command word belongs to exactly one row of the opcode table and decodes to a command of that row (R72). -/
def Obligations.OpcodeTableRowsPartitionWords : Prop :=
  ∀ w : CmdWord, ∃ r ∈ opcodeTable, r.matches w = true ∧ (decode w).mnemonic = r.mnemonic ∧
    ∀ r' ∈ opcodeTable, r'.matches w = true → r' = r

/-- R80: the word of each line of assembly. That `BIT s, b` with `b` of 2 to 255 keeps the ignored bits of `b` is the
model's choice (assumption log 19). -/
def Obligations.AssemblyLineWords : Prop :=
  ∀ (s : Fin 16) (b : BitVec 8) (w : CmdWord),
    (AsmLine.reset s).words = [0x1000#16 ||| BitVec.ofNat 16 s <<< 8] ∧
    (AsmLine.bit s b).words = [0x2000#16 ||| BitVec.ofNat 16 s <<< 8 ||| b.setWidth 16] ∧
    (AsmLine.decode s).words = [0x3000#16 ||| BitVec.ofNat 16 s <<< 8] ∧
    (AsmLine.rdf s).words = [0x4000#16 ||| BitVec.ofNat 16 s <<< 8] ∧
    (AsmLine.rdi s).words = [0x5000#16 ||| BitVec.ofNat 16 s <<< 8] ∧
    (AsmLine.rdu s).words = [0x6000#16 ||| BitVec.ofNat 16 s <<< 8] ∧
    (AsmLine.word w).words = [w]

/-- R81: NIB is four BITs, least significant bit first; FRAME is thirteen NIBs in index order; MEAS is the FRAME of the
header, the sign nibble, the six digits, the decimal point and the unit. -/
def Obligations.PseudoInstructionWords : Prop :=
  ∀ (s : Fin 16) (v : Nibble) (ns : Vector Nibble 13) (negative : Bool) (ds : Vector (Fin 10) 6) (p u : Nibble),
    (AsmLine.nib s v).words =
      [0, 1, 2, 3].map (fun k => 0x2000#16 ||| BitVec.ofNat 16 s <<< 8 ||| (BitVec.ofBool (v.getLsbD k)).setWidth 16) ∧
    (AsmLine.frame s ns).words = ns.toList.flatMap (fun n => (AsmLine.nib s n).words) ∧
    (AsmLine.frame s ns).words.length = 52 ∧
    (AsmLine.meas s negative ds p u).words = (AsmLine.frame s
      #v[0xF#4, 0xF#4, 0xF#4, 0xF#4, if negative then 0x8#4 else 0x0#4, BitVec.ofNat 4 ds[0], BitVec.ofNat 4 ds[1],
        BitVec.ofNat 4 ds[2], BitVec.ofNat 4 ds[3], BitVec.ofNat 4 ds[4], BitVec.ofNat 4 ds[5], p, u]).words

/-- R73: "An ignored field may hold any value. The command then behaves exactly as if the field were 0." -/
def Obligations.IgnoredBitsHaveNoEffect : Prop :=
  ∀ (w : CmdWord) (s : State),
    exec (decode (w &&& ~~~((decode w).ignoredData.setWidth 16))) s = exec (decode w) s

/-! ### One step of the machine -/

/-- A command word accepted on an edge after the first reset: the step is the effect of the decoded command on the state
with that edge taken from the port, and then the edge's clock work on the responses in flight (R260, R262). That a step is a
clock edge is the model's choice (assumption log 3). -/
def Obligations.StepRunsDecodedCommand : Prop :=
  ∀ (s : State) (c : PortCycle) (rest : List PortCycle) (i : Instr),
    s.port = c :: rest → c.rst = false → c.cmdValid = true → c.cmdReady = true → s.rstSeen = true →
    decode c.cmdWord = i → ∃ t, exec i { s with port := rest } = .next t ∧ step s = .next t.clock

/-- R260: with `rst` low and not both `cmd_valid` and `cmd_ready` no command is accepted. The sessions stay as they are, the
oldest response due is presented for this one cycle, and every other response in flight is one edge nearer. Which edge is
the `LAT`-th is the model's reading (assumption log 5). Three clauses are the model's choice: on an edge after the end of the
port list the host is idle (assumption log 4), and before the first reset too, where the spec leaves both open, the
sessions stay as they are (assumption log 7) and the response channel runs as after it (assumption log 20). -/
def Obligations.EdgeWithoutTransferOnlyMovesResponses : Prop :=
  ∀ s : State, (∀ c rest, s.port = c :: rest → c.rst = false ∧ ¬(c.cmdValid = true ∧ c.cmdReady = true)) →
    ∃ t, step s = .next t ∧ t.sessions = s.sessions ∧ t.params = s.params ∧ t.rstSeen = s.rstSeen ∧
      t.port = s.port.tail ∧
      (∀ r q, s.inFlight = ⟨1, r⟩ :: q → t.rsp = some r ∧ t.inFlight = q.map Pending.tick) ∧
      (∀ n r q, s.inFlight = ⟨n + 2, r⟩ :: q → t.rsp = none ∧ t.inFlight = ⟨n + 1, r⟩ :: q.map Pending.tick) ∧
      (s.inFlight = [] → t.rsp = none ∧ t.inFlight = [])

/-- R250: an edge with `rst` asserted puts every session into the zeroed state of R38 and discards every command accepted
and not yet answered. It holds before the first reset too. That `rst` wins over a command offered on the same edge and
lowers `rsp_valid` is the model's reading (assumption log 6). -/
def Obligations.HardwareResetZeroesEverySession : Prop :=
  ∀ (s : State) (c : PortCycle) (rest : List PortCycle), s.port = c :: rest → c.rst = true →
    ∃ t, step s = .next t ∧ t.nsess = s.nsess ∧ t.inFlight = [] ∧ t.rsp = none ∧ t.rstSeen = true ∧
      t.params = s.params ∧ t.port = rest ∧
      ∀ y ∈ t.sessions, y.bitCnt = 0#2 ∧ y.acc = 0#4 ∧ y.nibCnt = 0#4 ∧ (∀ i : Fin 13, y.buf[i] = 0#4) ∧
        y.res.f32 = 0#32 ∧ y.res.int = 0#32 ∧ y.res.dp = 0#4 ∧ y.res.unit = .mm ∧ y.res.rawUnit = 0#4 ∧
        y.res.sign = false ∧ y.res.oor = false ∧ y.res.valid = false

/-- R250: hardware reset leaves the sessions "exactly as if RESET `s` had been issued to each session". -/
def Obligations.HardwareResetIsResetOfEachSession : Prop :=
  ∀ (s : State) (c : PortCycle) (rest : List PortCycle), s.port = c :: rest → c.rst = true →
    ∃ t u, step s = .next t ∧ execAll ((List.range s.nsess).map fun k => .reset k 0#8) s = .next u ∧
      t.sessions = u.sessions

/-- R251: a command accepted before the first `rst` is refused. -/
def Obligations.CommandBeforeFirstResetRefused : Prop :=
  ∀ (s : State) (c : PortCycle) (rest : List PortCycle),
    s.port = c :: rest → c.rst = false → c.cmdValid = true → c.cmdReady = true → s.rstSeen = false →
    step s = .refused .commandBeforeReset

/-- R261: a command accepted in a state that meets the invariant is answered `LAT` edges later, whatever the port does
in between short of a reset: after `LAT` edges the response channel holds its response. That the accepting edge is the first
of the `LAT` is the model's reading (assumption log 5). -/
def Obligations.ResponseComesLatEdgesAfterAcceptance : Prop :=
  ∀ (s : State) (c : PortCycle) (between rest : List PortCycle),
    s.Inv → s.port = c :: (between ++ rest) → between.length + 1 = s.params.lat →
    c.rst = false → c.cmdValid = true → c.cmdReady = true → (∀ d ∈ between, d.rst = false) →
    ∃ t r u, exec (decode c.cmdWord) { s with port := between ++ rest } = .next t ∧ Answers s t r ∧
      core.run s.params.lat s = .next u ∧ u.port = rest ∧ u.rsp = some r

/-- The invariant holds right after reset, for every build of the block (R38, R39, R250) and at `State.reset`,
whose `LAT` = 1 is the model's choice (assumption log 1). -/
def Obligations.InvariantHoldsAtReset : Prop :=
  (∀ (n : Nat) (p : Params), 1 ≤ n → n ≤ 16 → 1 ≤ p.lat → (State.resetOf n p).Inv) ∧ State.reset.Inv

/-- R39: every step from a state that meets the invariant gives a state that meets it. -/
def Obligations.StepKeepsInvariant : Prop :=
  ∀ s t : State, s.Inv → step s = .next t → t.Inv

/-- R252: no step changes the parameters the block was built with. -/
def Obligations.StepKeepsBuildParameters : Prop :=
  ∀ s t : State, step s = .next t → t.params = s.params ∧ t.nsess = s.nsess

/-- R251 with R254: from a state that meets the invariant every step has a next state: no command sequence reaches a stop. -/
def Obligations.StepAlwaysAnswersAfterReset : Prop :=
  ∀ s : State, s.Inv → ∃ t, step s = .next t

/-! ### Rules of every command -/

/-- R76, R59: every command, legal or illegal, completes with exactly one response, behind those of the commands before
it, and leaves everything but its own session and the responses in flight as it was. -/
def Obligations.EveryCommandGivesOneResponse : Prop :=
  ∀ (i : Instr) (s : State), ∃ t r, exec i s = .next t ∧ Answers s t r ∧ ChangesOnlySession i.sid s t

/-- R204: a command that returns an error changes no state of any session, and its data is 0 (R78). -/
def Obligations.ErrorsChangeNothing : Prop :=
  ∀ (i : Instr) (s t : State) (r : Response), exec i s = .next t → Answers s t r → r.status.code.getLsbD 3 = true →
    t.sessions = s.sessions ∧ r.data = 0x00000000#32

/-- R77 and R78: each command returns only the statuses listed for it, and data other than 0 only from a read that
succeeds. -/
def Obligations.ResponsesAreThoseListed : Prop :=
  ∀ (i : Instr) (s t : State) (r : Response), exec i s = .next t → Answers s t r →
    r.status ∈ allowedStatuses i ∧ (r.data ≠ 0x00000000#32 → isRead i = true ∧ r.status = .success)

/-- R77: the code of each status, and bit 3 marks exactly the errors. -/
def Obligations.StatusCodes : Prop :=
  Status.success.code = 0x0#4 ∧ Status.ongoing.code = 0x1#4 ∧ Status.frameComplete.code = 0x2#4 ∧
  Status.errInvalidSession.code = 0x8#4 ∧ Status.errProtocolViolation.code = 0x9#4 ∧
  Status.errInvalidState.code = 0xA#4 ∧ Status.errInvalidFrameData.code = 0xB#4 ∧
  Status.errIllegalCommand.code = 0xF#4 ∧
  ∀ st : Status, st.code.getLsbD 3 = true ↔ st ∉ [Status.success, .ongoing, .frameComplete]

/-- R74: an illegal opcode answers ERR_ILLEGAL_COMMAND with data 0 and changes nothing, whatever SID and DATA hold. -/
def Obligations.IllegalOpcodesAnswerIllegalCommand : Prop :=
  ∀ (s : State) (sid : Nat) (data : BitVec 8),
    ∀ i ∈ [Instr.illegal0 sid data, .illegal7 sid data, .illegal8 sid data, .illegal9 sid data, .illegalA sid data,
      .illegalB sid data, .illegalC sid data, .illegalD sid data, .illegalE sid data, .illegalF sid data],
    exec i s = .next { s with inFlight := s.inFlight ++ [⟨s.params.lat, ⟨.errIllegalCommand, 0x00000000#32⟩⟩] }

/-- R74 on command words: every word whose OP is 0x0 or 0x7 to 0xF is illegal, and no other word is answered so. -/
def Obligations.IllegalExactlyForUnassignedOpcodes : Prop :=
  ∀ (w : CmdWord) (s : State),
    ((w >>> 12).toNat = 0 ∨ 7 ≤ (w >>> 12).toNat) ↔
      exec (decode w) s =
        .next { s with inFlight := s.inFlight ++ [⟨s.params.lat, ⟨.errIllegalCommand, 0x00000000#32⟩⟩] }

/-- R73: a legal command whose session index is not below NSESS answers ERR_INVALID_SESSION and changes nothing. -/
def Obligations.AbsentSessionAnswersInvalidSession : Prop :=
  ∀ (s : State) (sid : Nat) (data : BitVec 8), s.nsess ≤ sid →
    ∀ i ∈ [Instr.reset sid data, .bit sid data, .decode sid data, .rdf sid data, .rdi sid data, .rdu sid data],
    exec i s = .next { s with inFlight := s.inFlight ++ [⟨s.params.lat, ⟨.errInvalidSession, 0x00000000#32⟩⟩] }

/-- R205: the first error in its order is the one reported, and with none of them there is no error. -/
def Obligations.FirstErrorInOrderIsReported : Prop :=
  ∀ (w : CmdWord) (s : State), ∃ t r, exec (decode w) s = .next t ∧ Answers s t r ∧
    ((w >>> 12).toNat = 0 ∨ 7 ≤ (w >>> 12).toNat → r.status = .errIllegalCommand) ∧
    (1 ≤ (w >>> 12).toNat → (w >>> 12).toNat ≤ 6 →
      (s.nsess ≤ ((w >>> 8) &&& 0xF#16).toNat → r.status = .errInvalidSession) ∧
      ∀ x, s.sessions[((w >>> 8) &&& 0xF#16).toNat]? = some x →
        ((w >>> 12).toNat = 2 →
          (13 ≤ x.nibCnt.toNat → r.status = .errProtocolViolation) ∧
          (x.nibCnt.toNat < 13 → r.status = .ongoing ∨ r.status = .frameComplete)) ∧
        ((w >>> 12).toNat = 3 →
          (x.nibCnt ≠ 13#4 → r.status = .errInvalidState) ∧
          (x.nibCnt = 13#4 → (∃ i : Fin 13, i.val < 4 ∧ x.buf[i] ≠ 0xF#4) → r.status = .errInvalidFrameData) ∧
          (x.nibCnt = 13#4 → (∀ i : Fin 13, i.val < 4 → x.buf[i] = 0xF#4) →
            (s.params.strictBcd = true ∧ (∃ i : Fin 13, 5 ≤ i.val ∧ i.val ≤ 10 ∧ 9 < (x.buf[i]).toNat) →
              r.status = .errInvalidFrameData) ∧
            (¬(s.params.strictBcd = true ∧ ∃ i : Fin 13, 5 ≤ i.val ∧ i.val ≤ 10 ∧ 9 < (x.buf[i]).toNat) →
              r.status = .success))) ∧
        ((w >>> 12).toNat = 1 ∨ 4 ≤ (w >>> 12).toNat → r.status = .success))

/-- R206: two states whose sessions hold the same counters get the same status from a command, unless one of the two is
ERR_INVALID_FRAME_DATA. -/
def Obligations.OnlyFrameDataErrorsDependOnTheFrame : Prop :=
  ∀ (i : Instr) (s s' t t' : State) (r r' : Response),
    (s.sessions[i.sid]?).map (fun x => (x.bitCnt, x.nibCnt)) =
      (s'.sessions[i.sid]?).map (fun x => (x.bitCnt, x.nibCnt)) →
    exec i s = .next t → exec i s' = .next t' → Answers s t r → Answers s' t' r' →
    r.status ≠ .errInvalidFrameData → r'.status ≠ .errInvalidFrameData → r.status = r'.status

/-- R59: a command's response and its session's new contents are the same whatever state any other session holds. -/
def Obligations.CommandsDependOnTheirSessionOnly : Prop :=
  ∀ (i : Instr) (s s' t t' : State) (r r' : Response),
    s.params = s'.params → s.sessions[i.sid]? = s'.sessions[i.sid]? →
    exec i s = .next t → exec i s' = .next t' → Answers s t r → Answers s' t' r' →
    r = r' ∧ t.sessions[i.sid]? = t'.sessions[i.sid]?

/-- R59: "each session behaves as if it alone received its own sub-sequence of commands". `rs` are the responses to all the
commands, one each and in order. When session `k` alone gets its commands, they get the same responses in the same order,
and leave the same session. -/
def Obligations.SessionSeesOnlyItsOwnCommands : Prop :=
  ∀ (is : List Instr) (s : State) (k : Nat), ∃ t u rs,
    execAll is s = .next t ∧ execAll (is.filter fun i => i.sid == k) s = .next u ∧
      rs.length = is.length ∧ t.inFlight = s.inFlight ++ rs.map (fun r => ⟨s.params.lat, r⟩) ∧
      u.inFlight = s.inFlight ++ ((is.zip rs).filter fun p => p.1.sid == k).map (fun p => ⟨s.params.lat, p.2⟩) ∧
      t.sessions[k]? = u.sessions[k]?

/-- R29, R37: the result registers of a session change only by a DECODE of it that returns SUCCESS or by its RESET. -/
def Obligations.OnlyDecodeAndResetWriteResults : Prop :=
  ∀ (i : Instr) (s t : State) (k : Nat) (x y : Session) (r : Response),
    exec i s = .next t → Answers s t r → s.sessions[k]? = some x → t.sessions[k]? = some y → y.res ≠ x.res →
    i.sid = k ∧ r.status = .success ∧ (i.mnemonic = "DECODE" ∨ i.mnemonic = "RESET")

/-- R22, R142: the session state and the buffer of a session change only by a BIT of it or by its RESET, and once the
buffer is full only by its RESET (R26). -/
def Obligations.OnlyBitAndResetWriteSessionState : Prop :=
  ∀ (i : Instr) (s t : State) (k : Nat) (x y : Session),
    exec i s = .next t → s.sessions[k]? = some x → t.sessions[k]? = some y →
    (y.bitCnt, y.acc, y.nibCnt, y.buf) ≠ (x.bitCnt, x.acc, x.nibCnt, x.buf) →
    i.sid = k ∧ (i.mnemonic = "BIT" ∧ x.nibCnt.toNat < 13 ∨ i.mnemonic = "RESET")

/-! ### RESET and BIT -/

/-- R100: RESET of an existing session puts it into the zeroed state of R38, in every state of it. -/
def Obligations.ResetZeroesItsSession : Prop :=
  ∀ (s : State) (sid : Nat) (data : BitVec 8) (x : Session), s.sessions[sid]? = some x →
    ∃ t y, exec (.reset sid data) s = .next t ∧ t.sessions[sid]? = some y ∧
      y.bitCnt = 0#2 ∧ y.acc = 0#4 ∧ y.nibCnt = 0#4 ∧ (∀ i : Fin 13, y.buf[i] = 0#4) ∧
      y.res.f32 = 0#32 ∧ y.res.int = 0#32 ∧ y.res.dp = 0#4 ∧ y.res.unit = .mm ∧ y.res.rawUnit = 0#4 ∧
      y.res.sign = false ∧ y.res.oor = false ∧ y.res.valid = false ∧
      Answers s t ⟨.success, 0x00000000#32⟩ ∧ ChangesOnlySession sid s t

/-- R101: RESET forgets history: from any two states of the session it leads to the same, zeroed state of it, and two
RESETs in a row leave what one leaves. -/
def Obligations.ResetForgetsHistory : Prop :=
  ∀ (s s' t t' u : State) (sid : Nat) (data data' data'' : BitVec 8), sid < s.nsess → sid < s'.nsess →
    exec (.reset sid data) s = .next t → exec (.reset sid data') s' = .next t' →
    exec (.reset sid data'') t = .next u →
    t.sessions[sid]? = some Session.zeroed ∧ t'.sessions[sid]? = some Session.zeroed ∧ u.sessions = t.sessions

/-- R110, R112: a BIT that is not the fourth of its nibble is placed at position `bit_cnt` of `acc`, the other bits of
`acc` kept. The count goes up by one, and nibble count, buffer and result registers stay. -/
def Obligations.BitPlacesOneBit : Prop :=
  ∀ (s : State) (sid : Nat) (data : BitVec 8) (x : Session), s.sessions[sid]? = some x →
    x.nibCnt.toNat < 13 → x.bitCnt.toNat < 3 →
    ∃ t y, exec (.bit sid data) s = .next t ∧ t.sessions[sid]? = some y ∧
      y.bitCnt.toNat = x.bitCnt.toNat + 1 ∧
      (∀ k : Fin 4, y.acc.getLsbD k = if k.val = x.bitCnt.toNat then data.getLsbD 0 else x.acc.getLsbD k) ∧
      y.nibCnt = x.nibCnt ∧ y.buf = x.buf ∧ y.res = x.res ∧
      Answers s t ⟨.ongoing, 0x00000000#32⟩ ∧ ChangesOnlySession sid s t

/-- R114, R110: the fourth bit of a nibble stores the nibble at index `nib_cnt`, every other entry kept, clears `acc` and
`bit_cnt` and counts the nibble. It answers FRAME_COMPLETE when the count becomes 13 and ONGOING otherwise. -/
def Obligations.FourthBitStoresNibble : Prop :=
  ∀ (s : State) (sid : Nat) (data : BitVec 8) (x : Session), s.sessions[sid]? = some x →
    x.nibCnt.toNat < 13 → x.bitCnt.toNat = 3 →
    ∃ t y, exec (.bit sid data) s = .next t ∧ t.sessions[sid]? = some y ∧
      y.bitCnt = 0#2 ∧ y.acc = 0#4 ∧ y.nibCnt.toNat = x.nibCnt.toNat + 1 ∧
      (∀ i : Fin 13, i.val = x.nibCnt.toNat →
        ∀ k : Fin 4, (y.buf[i]).getLsbD k = if k.val = 3 then data.getLsbD 0 else x.acc.getLsbD k) ∧
      (∀ i : Fin 13, i.val ≠ x.nibCnt.toNat → y.buf[i] = x.buf[i]) ∧ y.res = x.res ∧
      Answers s t ⟨if x.nibCnt.toNat = 12 then .frameComplete else .ongoing, 0x00000000#32⟩ ∧
      ChangesOnlySession sid s t

/-- R110: BIT on a session whose nibble count is 13 or more answers ERR_PROTOCOL_VIOLATION and changes nothing. -/
def Obligations.BitOnFullBufferRefusedByStatus : Prop :=
  ∀ (s : State) (sid : Nat) (data : BitVec 8) (x : Session), s.sessions[sid]? = some x → 13 ≤ x.nibCnt.toNat →
    exec (.bit sid data) s =
      .next { s with inFlight := s.inFlight ++ [⟨s.params.lat, ⟨.errProtocolViolation, 0x00000000#32⟩⟩] }

/-- R115, R117: from the zeroed state 52 BITs of any values answer ONGOING 51 times and then FRAME_COMPLETE, and they fill
the buffer least significant bit first, in index order. Nothing else of the machine changes. After any further commands
with no RESET of the session among them, a BIT answers ERR_PROTOCOL_VIOLATION. -/
def Obligations.FiftyTwoBitsFillTheBuffer : Prop :=
  ∀ (s : State) (sid : Nat) (b : Vector (BitVec 8) 52), s.sessions[sid]? = some Session.zeroed →
    ∃ t y, execAll (b.toList.map (.bit sid)) s = .next t ∧ t.sessions[sid]? = some y ∧
      (∀ (i : Nat) (h : i < 13), (y.buf[i]).toNat =
        (b[4 * i].getLsbD 0).toNat + 2 * (b[4 * i + 1].getLsbD 0).toNat +
          4 * (b[4 * i + 2].getLsbD 0).toNat + 8 * (b[4 * i + 3].getLsbD 0).toNat) ∧
      y.nibCnt = 13#4 ∧ y.bitCnt = 0#2 ∧ y.acc = 0#4 ∧ y.res = ResultRegs.zeroed ∧
      t.inFlight = s.inFlight ++ (List.replicate 51 Status.ongoing ++ [Status.frameComplete]).map
        (fun st => ⟨s.params.lat, ⟨st, 0x00000000#32⟩⟩) ∧
      ChangesOnlySession sid s t ∧
      ∀ js : List Instr, (∀ j ∈ js, j.sid = sid → j.mnemonic ≠ "RESET") →
        ∃ u, execAll js t = .next u ∧ ∀ data, exec (.bit sid data) u =
          .next { u with inFlight := u.inFlight ++ [⟨s.params.lat, ⟨.errProtocolViolation, 0x00000000#32⟩⟩] }

/-- R40: BIT returns FRAME_COMPLETE exactly when the count becomes 13 and ERR_PROTOCOL_VIOLATION exactly when it was 13 or
more, and DECODE returns ERR_INVALID_STATE exactly when it is not 13. -/
def Obligations.StatusesRevealTheNibbleCount : Prop :=
  ∀ (s t : State) (sid : Nat) (data : BitVec 8) (x y : Session) (r : Response), s.sessions[sid]? = some x →
    t.sessions[sid]? = some y → Answers s t r →
    (exec (.bit sid data) s = .next t →
      (r.status = .frameComplete ↔ x.nibCnt ≠ 13#4 ∧ y.nibCnt = 13#4) ∧
      (r.status = .errProtocolViolation ↔ 13 ≤ x.nibCnt.toNat)) ∧
    (exec (.decode sid data) s = .next t → (r.status = .errInvalidState ↔ x.nibCnt ≠ 13#4))

/-! ### DECODE -/

/-- R131: DECODE with a nibble count other than 13 answers ERR_INVALID_STATE and changes nothing. -/
def Obligations.DecodeOfIncompleteFrame : Prop :=
  ∀ (s : State) (sid : Nat) (data : BitVec 8) (x : Session), s.sessions[sid]? = some x → x.nibCnt ≠ 13#4 →
    exec (.decode sid data) s =
      .next { s with inFlight := s.inFlight ++ [⟨s.params.lat, ⟨.errInvalidState, 0x00000000#32⟩⟩] }

/-- R132, R133: a header nibble other than 0xF is ERR_INVALID_FRAME_DATA, whatever the payload, with nothing changed. -/
def Obligations.DecodeOfWrongHeader : Prop :=
  ∀ (s : State) (sid : Nat) (data : BitVec 8) (x : Session), s.sessions[sid]? = some x → x.nibCnt = 13#4 →
    (∃ i : Fin 13, i.val < 4 ∧ x.buf[i] ≠ 0xF#4) →
    exec (.decode sid data) s =
      .next { s with inFlight := s.inFlight ++ [⟨s.params.lat, ⟨.errInvalidFrameData, 0x00000000#32⟩⟩] }

/-- R134 with `STRICT_BCD`: a digit nibble above 9 is ERR_INVALID_FRAME_DATA, with nothing changed. -/
def Obligations.StrictDecodeOfOutOfRangeDigit : Prop :=
  ∀ (s : State) (sid : Nat) (data : BitVec 8) (x : Session), s.sessions[sid]? = some x → x.nibCnt = 13#4 →
    (∀ i : Fin 13, i.val < 4 → x.buf[i] = 0xF#4) → s.params.strictBcd = true →
    (∃ i : Fin 13, 5 ≤ i.val ∧ i.val ≤ 10 ∧ 9 < (x.buf[i]).toNat) →
    exec (.decode sid data) s =
      .next { s with inFlight := s.inFlight ++ [⟨s.params.lat, ⟨.errInvalidFrameData, 0x00000000#32⟩⟩] }

/-- R130, R141: a DECODE that passes its checks answers SUCCESS and writes the eight result registers from the buffer:
the signed mantissa, the rounded quotient with its sign bit changed when the sign flag is set (so that bit 31 is the flag and
bits 30:0 are those of the quotient: R138, "a change of the sign bit alone"), the exponent, the unit, the raw unit, the sign, the
out-of-range flag and `valid`. Session state, buffer and all else stay (R142). -/
def Obligations.DecodeWritesResult : Prop :=
  ∀ (s : State) (sid : Nat) (data : BitVec 8) (x : Session), s.sessions[sid]? = some x → x.nibCnt = 13#4 →
    (∀ i : Fin 13, i.val < 4 → x.buf[i] = 0xF#4) →
    (s.params.strictBcd = true → ∀ i : Fin 13, 5 ≤ i.val → i.val ≤ 10 → (x.buf[i]).toNat ≤ 9) →
    ∃ t y, exec (.decode sid data) s = .next t ∧ t.sessions[sid]? = some y ∧
      y.res.int.toInt = (if (x.buf[4]).getLsbD 3 then -(digitSum x.buf : Int) else digitSum x.buf) ∧
      y.res.f32 = (if (x.buf[4]).getLsbD 3 then neg32 (rne32 (digitSum x.buf) (10 ^ (x.buf[11]).toNat))
        else rne32 (digitSum x.buf) (10 ^ (x.buf[11]).toNat)) ∧
      y.res.f32.getLsbD 31 = (x.buf[4]).getLsbD 3 ∧
      y.res.f32.extractLsb' 0 31 = (rne32 (digitSum x.buf) (10 ^ (x.buf[11]).toNat)).extractLsb' 0 31 ∧
      y.res.dp = x.buf[11] ∧ (y.res.unit = .mm ↔ x.buf[12] = 0#4) ∧ y.res.rawUnit = x.buf[12] ∧
      y.res.sign = (x.buf[4]).getLsbD 3 ∧
      (y.res.oor = true ↔ ∃ i : Fin 13, 5 ≤ i.val ∧ i.val ≤ 10 ∧ 9 < (x.buf[i]).toNat) ∧ y.res.valid = true ∧
      y.bitCnt = x.bitCnt ∧ y.acc = x.acc ∧ y.nibCnt = x.nibCnt ∧ y.buf = x.buf ∧
      Answers s t ⟨.success, 0x00000000#32⟩ ∧ ChangesOnlySession sid s t

/-- R138: a zero magnitude with the sign set decodes to −0.0 and mantissa 0, whatever the decimal point. -/
def Obligations.NegativeZeroKeepsItsSign : Prop :=
  ∀ (s : State) (sid : Nat) (data : BitVec 8) (x : Session), s.sessions[sid]? = some x → x.nibCnt = 13#4 →
    (∀ i : Fin 13, i.val < 4 → x.buf[i] = 0xF#4) → (∀ i : Fin 13, 5 ≤ i.val → i.val ≤ 10 → x.buf[i] = 0#4) →
    (x.buf[4]).getLsbD 3 = true →
    ∃ t y, exec (.decode sid data) s = .next t ∧ t.sessions[sid]? = some y ∧
      y.res.f32 = 0x80000000#32 ∧ y.res.int = 0x00000000#32 ∧ y.res.sign = true

/-- R142: DECODE changes neither session state nor buffer, whatever it answers, and a second DECODE of the same buffer
returns the same response and changes no session. -/
def Obligations.RepeatedDecodeGivesTheSame : Prop :=
  ∀ (s : State) (sid : Nat) (data data' : BitVec 8), ∃ t u r,
    exec (.decode sid data) s = .next t ∧ exec (.decode sid data') t = .next u ∧
      Answers s t r ∧ Answers t u r ∧ u.sessions = t.sessions ∧
      t.sessions.map (fun x => (x.bitCnt, x.acc, x.nibCnt, x.buf)) =
        s.sessions.map (fun x => (x.bitCnt, x.acc, x.nibCnt, x.buf))

/-- R140: in a state that meets the invariant, a DECODE that returns an error finds the result registers of its session
in their reset values and leaves them so. -/
def Obligations.FailedDecodeFindsNoResult : Prop :=
  ∀ (s t : State) (sid : Nat) (data : BitVec 8) (x : Session) (r : Response), s.Inv → s.sessions[sid]? = some x →
    exec (.decode sid data) s = .next t → Answers s t r → r.status ≠ .success →
    x.res = ResultRegs.zeroed ∧ t.sessions = s.sessions

/-- R135: the magnitude DECODE folds is the closed-form digit sum, at most 1666665, and at most 999999 when every digit
is 0 to 9. -/
def Obligations.MagnitudeIsDigitSum : Prop :=
  ∀ buf : Vector Nibble 13, magnitude buf = digitSum buf ∧ magnitude buf ≤ 1666665 ∧
    ((∀ i : Fin 13, 5 ≤ i.val → i.val ≤ 10 → (buf[i]).toNat ≤ 9) → magnitude buf ≤ 999999)

/-- `RNE32`: the pattern DECODE stores for `M / 10^dp` is a non-negative finite binary32 number, no finite binary32
number is nearer to the exact quotient, and one as near is met only when the stored significand is even. Distances are
compared times `2^149 · 10^dp`. -/
def Obligations.StoredFloatIsNearestEven : Prop :=
  ∀ m dp : Nat, m ≤ 1666665 → dp ≤ 15 →
    (rne32 m (10 ^ dp)).getLsbD 31 = false ∧ f32Exponent (rne32 m (10 ^ dp)) < 255 ∧
    ∀ g : BitVec 32, f32Exponent g < 255 →
      let near := ((f32Scaled (rne32 m (10 ^ dp)) * 10 ^ dp : Int) - m * 2 ^ 149).natAbs
      let far := ((f32Scaled g * 10 ^ dp : Int) - m * 2 ^ 149).natAbs
      near ≤ far ∧
        (near = far → f32Scaled g ≠ f32Scaled (rne32 m (10 ^ dp)) → (rne32 m (10 ^ dp)).getLsbD 0 = false)

/-- R143: the output is never a NaN, an infinity or a subnormal, and is zero exactly when the magnitude is 0. -/
def Obligations.StoredFloatIsNormalOrZero : Prop :=
  ∀ m dp : Nat, m ≤ 1666665 → dp ≤ 15 →
    (m = 0 → rne32 m (10 ^ dp) = 0x00000000#32) ∧
    (m ≠ 0 → 1 ≤ f32Exponent (rne32 m (10 ^ dp)) ∧ f32Exponent (rne32 m (10 ^ dp)) ≤ 254)

/-- R143: every magnitude converts to binary32 exactly, `10^dp` is exact for `dp` up to 10, and from 11 on it is not. -/
def Obligations.ExactBinary32Operands : Prop :=
  (∀ m : Nat, m ≤ 1666665 → f32Scaled (rne32 m 1) = m * 2 ^ 149) ∧
  (∀ dp : Nat, dp ≤ 10 → f32Scaled (rne32 (10 ^ dp) 1) = 10 ^ dp * 2 ^ 149) ∧
  (∀ (dp : Nat) (g : BitVec 32), 11 ≤ dp → dp ≤ 15 → f32Exponent g < 255 → f32Scaled g ≠ 10 ^ dp * 2 ^ 149)

/-- R145, the round trip: from the zeroed state the frame of any sign, six-digit magnitude, decimal point 0 to 6 and unit
nibble, sent bit by bit and decoded, gives the value back: the exact mantissa and exponent, the rounded float and the
unit. It holds for both settings of `STRICT_BCD`. -/
def Obligations.MeasurementRoundTrip : Prop :=
  ∀ (s : State) (sid : Fin 16) (negative : Bool) (m : Nat) (p u : Nibble) (data : BitVec 8),
    s.sessions[sid.val]? = some Session.zeroed → m ≤ 999999 → p.toNat ≤ 6 →
    ∃ t y q, execAll ((AsmLine.meas sid negative (decimalDigits m) p u).commands ++ [.decode sid data]) s = .next t ∧
      t.sessions[sid.val]? = some y ∧ t.inFlight = q ++ [⟨s.params.lat, ⟨.success, 0x00000000#32⟩⟩] ∧
      y.res.int.toInt = (if negative then -(m : Int) else m) ∧ y.res.dp = p ∧
      y.res.f32 = (if negative then neg32 (rne32 m (10 ^ p.toNat)) else rne32 m (10 ^ p.toNat)) ∧
      y.res.unit = (if u = 0#4 then .mm else .inch) ∧ y.res.valid = true

/-! ### RDF, RDI and RDU -/

/-- R170, R171: RDF answers the float and RDI the mantissa of an existing session, in every state of it, and no session
changes (R173). -/
def Obligations.ReadsAnswerResultRegisters : Prop :=
  ∀ (s : State) (sid : Nat) (data : BitVec 8) (x : Session), s.sessions[sid]? = some x →
    exec (.rdf sid data) s = .next { s with inFlight := s.inFlight ++ [⟨s.params.lat, ⟨.success, x.res.f32⟩⟩] } ∧
    exec (.rdi sid data) s = .next { s with inFlight := s.inFlight ++ [⟨s.params.lat, ⟨.success, x.res.int⟩⟩] }

/-- R172, R79: RDU answers the info word, field by field, in every state of an existing session, and no session changes. -/
def Obligations.RduAnswersInfoWord : Prop :=
  ∀ (s : State) (sid : Nat) (data : BitVec 8) (x : Session), s.sessions[sid]? = some x →
    ∃ d : DataWord,
      exec (.rdu sid data) s = .next { s with inFlight := s.inFlight ++ [⟨s.params.lat, ⟨.success, d⟩⟩] } ∧
      (d.getLsbD 0 = true ↔ x.res.unit = .inch) ∧ d.extractLsb' 1 3 = 0#3 ∧ d.extractLsb' 4 4 = x.res.rawUnit ∧
      d.extractLsb' 8 4 = x.res.dp ∧ d.getLsbD 12 = x.res.sign ∧ d.getLsbD 13 = x.res.oor ∧ d.getLsbD 14 = false ∧
      d.getLsbD 15 = x.res.valid ∧ d.extractLsb' 16 16 = 0#16

/-- R173: in a state that meets the invariant, the three reads of a session with no result answer SUCCESS and 0. -/
def Obligations.ReadsWithoutResultAnswerZero : Prop :=
  ∀ (s : State) (sid : Nat) (data : BitVec 8) (x : Session), s.Inv → s.sessions[sid]? = some x →
    x.res.valid = false → ∀ i ∈ [Instr.rdf sid data, .rdi sid data, .rdu sid data],
    exec i s = .next { s with inFlight := s.inFlight ++ [⟨s.params.lat, ⟨.success, 0x00000000#32⟩⟩] }
end

