-- ==== Sys2Proof/Laws/State.lean ====
section
/-!
SUPPORT. One lemma per field of State per update, and the basic facts of the reset state. Later proofs use these and
do not unfold the updates.
-/

namespace Sys2Proof.Machine

open Sys2Proof.Config

@[simp] theorem State.respond_sessions (s : State) (r : Response) : (s.respond r).sessions = s.sessions := rfl
@[simp] theorem State.respond_params (s : State) (r : Response) : (s.respond r).params = s.params := rfl
@[simp] theorem State.respond_rstSeen (s : State) (r : Response) : (s.respond r).rstSeen = s.rstSeen := rfl
@[simp] theorem State.respond_port (s : State) (r : Response) : (s.respond r).port = s.port := rfl
@[simp] theorem State.respond_inFlight (s : State) (r : Response) : (s.respond r).inFlight = s.inFlight ++ [⟨s.params.lat, r⟩] := rfl
@[simp] theorem State.respond_rsp (s : State) (r : Response) : (s.respond r).rsp = s.rsp := rfl

@[simp] theorem State.raise_sessions (s : State) (st : Status) : (s.raise st).sessions = s.sessions := rfl
@[simp] theorem State.raise_params (s : State) (st : Status) : (s.raise st).params = s.params := rfl
@[simp] theorem State.raise_rstSeen (s : State) (st : Status) : (s.raise st).rstSeen = s.rstSeen := rfl
@[simp] theorem State.raise_port (s : State) (st : Status) : (s.raise st).port = s.port := rfl
@[simp] theorem State.raise_inFlight (s : State) (st : Status) : (s.raise st).inFlight = s.inFlight ++ [⟨s.params.lat, errorResponse st⟩] := rfl
@[simp] theorem State.raise_rsp (s : State) (st : Status) : (s.raise st).rsp = s.rsp := rfl

@[simp] theorem State.setSession_sessions (s : State) (k : Nat) (x : Session) : (s.setSession k x).sessions = s.sessions.set k x := rfl
@[simp] theorem State.setSession_params (s : State) (k : Nat) (x : Session) : (s.setSession k x).params = s.params := rfl
@[simp] theorem State.setSession_rstSeen (s : State) (k : Nat) (x : Session) : (s.setSession k x).rstSeen = s.rstSeen := rfl
@[simp] theorem State.setSession_port (s : State) (k : Nat) (x : Session) : (s.setSession k x).port = s.port := rfl
@[simp] theorem State.setSession_inFlight (s : State) (k : Nat) (x : Session) : (s.setSession k x).inFlight = s.inFlight := rfl
@[simp] theorem State.setSession_rsp (s : State) (k : Nat) (x : Session) : (s.setSession k x).rsp = s.rsp := rfl

@[simp] theorem State.hardwareReset_sessions (s : State) : s.hardwareReset.sessions = s.sessions.map fun _ => Session.zeroed := rfl
@[simp] theorem State.hardwareReset_params (s : State) : s.hardwareReset.params = s.params := rfl
@[simp] theorem State.hardwareReset_rstSeen (s : State) : s.hardwareReset.rstSeen = true := rfl
@[simp] theorem State.hardwareReset_port (s : State) : s.hardwareReset.port = s.port := rfl
@[simp] theorem State.hardwareReset_inFlight (s : State) : s.hardwareReset.inFlight = [] := rfl
@[simp] theorem State.hardwareReset_rsp (s : State) : s.hardwareReset.rsp = none := rfl

@[simp] theorem State.clock_sessions (s : State) : s.clock.sessions = s.sessions := by
  unfold State.clock; split <;> rfl

@[simp] theorem State.clock_params (s : State) : s.clock.params = s.params := by
  unfold State.clock; split <;> rfl

@[simp] theorem State.clock_rstSeen (s : State) : s.clock.rstSeen = s.rstSeen := by
  unfold State.clock; split <;> rfl

@[simp] theorem State.clock_port (s : State) : s.clock.port = s.port := by
  unfold State.clock; split <;> rfl

@[simp] theorem State.respond_nsess (s : State) (r : Response) : (s.respond r).nsess = s.nsess := rfl

@[simp] theorem State.setSession_nsess (s : State) (k : Nat) (x : Session) : (s.setSession k x).nsess = s.nsess := by
  simp [State.nsess]

@[simp] theorem State.hardwareReset_nsess (s : State) : s.hardwareReset.nsess = s.nsess := by
  simp [State.nsess]

@[simp] theorem State.clock_nsess (s : State) : s.clock.nsess = s.nsess := by
  simp [State.nsess]

@[simp] theorem Pending.tick_wait (p : Pending) : p.tick.wait = p.wait - 1 := rfl

@[simp] theorem Pending.tick_resp (p : Pending) : p.tick.resp = p.resp := rfl

/-- Writing back what a session holds changes nothing. -/
theorem State.setSession_self {s : State} {k : Nat} {x : Session} (h : s.sessions[k]? = some x) :
    s.setSession k x = s := by
  obtain ⟨hk, hx⟩ := List.getElem?_eq_some_iff.1 h
  unfold State.setSession
  rw [← hx, List.set_getElem_self]

/-- An existing session reads as it was written. -/
theorem State.setSession_get {s : State} {k : Nat} {x : Session} (h : s.sessions[k]? = some x) (y : Session) :
    (s.setSession k y).sessions[k]? = some y := by
  obtain ⟨hk, _⟩ := List.getElem?_eq_some_iff.1 h
  simp [hk]

/-- Every other session reads as before. -/
theorem State.setSession_get_other (s : State) {k j : Nat} (h : j ≠ k) (y : Session) :
    (s.setSession k y).sessions[j]? = s.sessions[j]? := by
  simp [List.getElem?_set_ne h.symm]

/-- No response in flight: nothing is presented. -/
theorem State.clock_of_nil {s : State} (h : s.inFlight = []) : s.clock = { s with rsp := none } := by
  cases s; simp_all [State.clock]

/-- The oldest response is due at this edge: it is presented, and the others move up. -/
theorem State.clock_of_due {s : State} {p : Pending} {q : List Pending} (h : s.inFlight = p :: q) (hp : p.wait ≤ 1) :
    s.clock = { s with inFlight := q.map Pending.tick, rsp := some p.resp } := by
  obtain ⟨w, r⟩ := p
  have h0 : w - 1 = 0 := by simp only at hp; omega
  simp [State.clock, h, Pending.tick, h0]

/-- The oldest response is not due yet: nothing is presented, and every wait is one less. -/
theorem State.clock_of_waiting {s : State} {p : Pending} {q : List Pending} (h : s.inFlight = p :: q)
    (hp : 2 ≤ p.wait) : s.clock = { s with inFlight := (p :: q).map Pending.tick, rsp := none } := by
  obtain ⟨w, r⟩ := p
  obtain ⟨n, rfl⟩ : ∃ n, w = n + 2 := ⟨w - 2, by simp only at hp; omega⟩
  simp [State.clock, h, Pending.tick]

@[simp] theorem bufWrite_same (buf : Vector Nibble frameNibbles) (i : BitVec 4) (v : Nibble) (h : i.toNat < 13) :
    (bufWrite buf i v)[i.toNat] = v := by
  simp [bufWrite]

/-- A write leaves every other entry alone (20_memory.md R51). -/
theorem bufWrite_other (buf : Vector Nibble frameNibbles) (i : BitVec 4) (v : Nibble) (j : Nat) (h : j < 13)
    (hj : j ≠ i.toNat) : (bufWrite buf i v)[j] = buf[j] := by
  simp [bufWrite, hj.symm]

/-- Every entry of the zeroed buffer is 0 (10_state.md R38). -/
@[simp] theorem Session.zeroed_buf (i : Nat) (h : i < 13) : (Session.zeroed.buf)[i] = 0#4 := by
  simp [Session.zeroed]

@[simp] theorem State.resetOf_nsess (n : Nat) (p : Params) : (State.resetOf n p).nsess = n := by
  simp [State.resetOf, State.nsess]

end Sys2Proof.Machine
end

