-- ==== Sys2Proof/Laws/Ops.lean ====
section
/-!
SUPPORT. What each shared operation can do, said once: running a command on a session, the per-session effects of the
commands, and the shape every command has.
-/

namespace Sys2Proof.Machine

open Sys2Proof.Config

/-- Running on an existing session. -/
theorem onSession_some {s : State} {sid : Nat} {x : Session} (h : s.sessions[sid]? = some x)
    (f : Session → Session × Response) :
    s.onSession sid f = .next ((s.setSession sid (f x).1).respond (f x).2) := by
  simp [State.onSession, h]

/-- Running on a session that does not exist. -/
theorem onSession_none {s : State} {sid : Nat} (h : s.sessions[sid]? = none) (f : Session → Session × Response) :
    s.onSession sid f = .next (s.raise .errInvalidSession) := by
  simp [State.onSession, h]

/-- The per-session effect of a legal command, and none for an illegal opcode. -/
def sessionEffect (strict : Bool) : Instr → Option (Session → Session × Response)
  | .reset _ _ => some Session.doReset
  | .bit _ d => some fun x => x.acceptBit (bitOperand d)
  | .decode _ _ => some (Session.decodeFrame strict)
  | .rdf _ _ => some (Session.readResult ResultRegs.f32)
  | .rdi _ _ => some (Session.readResult ResultRegs.int)
  | .rdu _ _ => some (Session.readResult infoWord)
  | .illegal0 _ _ | .illegal7 _ _ | .illegal8 _ _ | .illegal9 _ _ | .illegalA _ _ | .illegalB _ _ | .illegalC _ _
  | .illegalD _ _ | .illegalE _ _ | .illegalF _ _ => none

/-- The session index a command's meaning is given. -/
def sessionIndex : Instr → Nat
  | .reset k _ | .bit k _ | .decode k _ | .rdf k _ | .rdi k _ | .rdu k _ => k
  | .illegal0 k _ | .illegal7 k _ | .illegal8 k _ | .illegal9 k _ | .illegalA k _ | .illegalB k _ | .illegalC k _
  | .illegalD k _ | .illegalE k _ | .illegalF k _ => k

/-- The shape of every command: the effect of a legal one runs on its session, an illegal opcode answers its error. -/
theorem exec_shape (i : Instr) (s : State) :
    exec i s = match sessionEffect s.params.strictBcd i with
      | some f => s.onSession (sessionIndex i) f
      | none => .next (s.raise .errIllegalCommand) := by
  cases i <;> rfl

/-- Everything a command can do: it answers a next state, which is the state with an error answered, or the state with
its own session replaced by what its effect gives and that effect's response answered. -/
theorem exec_cases (i : Instr) (s : State) :
    (sessionEffect s.params.strictBcd i = none ∧ exec i s = .next (s.raise .errIllegalCommand)) ∨
    (∃ f, sessionEffect s.params.strictBcd i = some f ∧ s.sessions[sessionIndex i]? = none ∧
      exec i s = .next (s.raise .errInvalidSession)) ∨
    (∃ f x, sessionEffect s.params.strictBcd i = some f ∧ s.sessions[sessionIndex i]? = some x ∧
      exec i s = .next ((s.setSession (sessionIndex i) (f x).1).respond (f x).2)) := by
  rw [exec_shape]
  cases hf : sessionEffect s.params.strictBcd i with
  | none => exact .inl ⟨rfl, rfl⟩
  | some f =>
    cases hx : s.sessions[sessionIndex i]? with
    | none => exact .inr (.inl ⟨f, rfl, rfl, onSession_none hx f⟩)
    | some x => exact .inr (.inr ⟨f, x, rfl, rfl, onSession_some hx f⟩)

/-- Everything BIT can do to its session: refused, a bit placed, or a nibble stored (40_accumulator.md R110). -/
theorem acceptBit_cases (x : Session) (b : Bool) :
    (13 ≤ x.nibCnt.toNat ∧ x.acceptBit b = (x, errorResponse .errProtocolViolation)) ∨
    (x.nibCnt.toNat < 13 ∧ x.bitCnt ≠ 3#2 ∧
      x.acceptBit b = ({ x with acc := placeBit x.acc x.bitCnt b, bitCnt := x.bitCnt + 1#2 }, ⟨.ongoing, 0#32⟩)) ∨
    (x.nibCnt.toNat < 13 ∧ x.bitCnt = 3#2 ∧
      x.acceptBit b =
        ({ x with buf := bufWrite x.buf x.nibCnt (placeBit x.acc x.bitCnt b), acc := 0#4, bitCnt := 0#2,
                  nibCnt := x.nibCnt + 1#4 },
          ⟨if x.nibCnt + 1#4 = 13#4 then .frameComplete else .ongoing, 0#32⟩)) := by
  have h4 : x.bitCnt.toNat < 4 := x.bitCnt.isLt
  by_cases h : x.nibCnt.toNat < 13
  · by_cases h3 : x.bitCnt = 3#2
    · exact .inr (.inr ⟨h, h3, by simp [Session.acceptBit, h, h3]⟩)
    · exact .inr (.inl ⟨h, h3, by simp [Session.acceptBit, h, h4, h3]⟩)
  · exact .inl ⟨by omega, by simp [Session.acceptBit, h]⟩

/-- Everything DECODE can do to its session: one of three errors with nothing changed, or the result written
(41_decoder.md R130). -/
theorem decodeFrame_cases (strict : Bool) (x : Session) :
    (x.nibCnt ≠ 13#4 ∧ x.decodeFrame strict = (x, errorResponse .errInvalidState)) ∨
    (x.nibCnt = 13#4 ∧ headerOk x.buf = false ∧ x.decodeFrame strict = (x, errorResponse .errInvalidFrameData)) ∨
    (x.nibCnt = 13#4 ∧ headerOk x.buf = true ∧ (strict = true ∧ outOfRange x.buf = true) ∧
      x.decodeFrame strict = (x, errorResponse .errInvalidFrameData)) ∨
    (x.nibCnt = 13#4 ∧ headerOk x.buf = true ∧ ¬(strict = true ∧ outOfRange x.buf = true) ∧
      x.decodeFrame strict = ({ x with res := decodedResult x.buf }, ⟨.success, 0#32⟩)) := by
  by_cases h13 : x.nibCnt = 13#4
  · cases hh : headerOk x.buf with
    | false => exact .inr (.inl ⟨h13, rfl, by simp [Session.decodeFrame, h13, hh]⟩)
    | true =>
      by_cases hs : strict = true ∧ outOfRange x.buf = true
      · exact .inr (.inr (.inl ⟨h13, rfl, hs, by simp [Session.decodeFrame, h13, hh, hs.1, hs.2]⟩))
      · exact .inr (.inr (.inr ⟨h13, rfl, hs, by simp only [Session.decodeFrame, h13, hh, hs]; simp⟩))
  · exact .inl ⟨h13, by simp [Session.decodeFrame, h13]⟩

/-- The header check, entry by entry. -/
theorem headerOk_iff (buf : Vector Nibble frameNibbles) :
    headerOk buf = true ↔ ∀ i : Fin frameNibbles, i.val < 4 → buf[i] = headerNibble := by
  simp only [headerOk, Bool.and_eq_true, beq_iff_eq]
  constructor
  · rintro ⟨⟨⟨h0, h1⟩, h2⟩, h3⟩ ⟨i, hi⟩ h4
    match i, hi, h4 with
    | 0, _, _ => exact h0
    | 1, _, _ => exact h1
    | 2, _, _ => exact h2
    | 3, _, _ => exact h3
  · intro h
    exact ⟨⟨⟨h 0 (by decide), h 1 (by decide)⟩, h 2 (by decide)⟩, h 3 (by decide)⟩

/-- The out-of-range flag, entry by entry. -/
theorem outOfRange_iff (buf : Vector Nibble frameNibbles) :
    outOfRange buf = true ↔ ∃ i : Fin frameNibbles, 5 ≤ i.val ∧ i.val ≤ 10 ∧ 9 < (buf[i]).toNat := by
  simp only [outOfRange, digitOutOfRange, Bool.or_eq_true, decide_eq_true_eq]
  constructor
  · rintro (((((h | h) | h) | h) | h) | h)
    · exact ⟨5, by decide, by decide, h⟩
    · exact ⟨6, by decide, by decide, h⟩
    · exact ⟨7, by decide, by decide, h⟩
    · exact ⟨8, by decide, by decide, h⟩
    · exact ⟨9, by decide, by decide, h⟩
    · exact ⟨10, by decide, by decide, h⟩
  · rintro ⟨⟨i, hi⟩, h5, h10, h⟩
    simp only at h5 h10
    match i, hi, h5, h10 with
    | 5, _, _, _ => exact .inl (.inl (.inl (.inl (.inl h))))
    | 6, _, _, _ => exact .inl (.inl (.inl (.inl (.inr h))))
    | 7, _, _, _ => exact .inl (.inl (.inl (.inr h)))
    | 8, _, _, _ => exact .inl (.inl (.inr h))
    | 9, _, _, _ => exact .inl (.inr h)
    | 10, _, _, _ => exact .inr h

/-- Placing a bit, position by position (40_accumulator.md R110). -/
theorem placeBit_getLsbD (acc : Nibble) (k : BitVec 2) (b : Bool) (j : Fin 4) :
    (placeBit acc k b).getLsbD j = if j.val = k.toNat then b else acc.getLsbD j := by
  revert acc k b j
  decide

end Sys2Proof.Machine
end

