-- ==== Sys2Proof/Laws/Step.lean ====
section
/-!
SUPPORT. Everything one step can do, said once.
-/

namespace Sys2Proof.Machine

/-- A step that answers is a hardware reset, a command's effect followed by the edge's clock work, or the clock work
alone. -/
theorem step_cases {s t : State} (h : step s = .next t) :
    (s.port = [] ∧ t = s.clock) ∨
    (∃ c rest, s.port = c :: rest ∧ c.rst = true ∧ t = { s with port := rest }.hardwareReset) ∨
    (∃ c rest, s.port = c :: rest ∧ c.rst = false ∧ c.accepts = false ∧ t = { s with port := rest }.clock) ∨
    (∃ c rest u, s.port = c :: rest ∧ c.rst = false ∧ c.accepts = true ∧ s.rstSeen = true ∧
      exec (decode c.cmdWord) { s with port := rest } = .next u ∧ t = u.clock) := by
  unfold step at h
  split at h
  · next hp => exact .inl ⟨hp, by simpa using h.symm⟩
  · next c rest hp =>
    split at h
    · next hr => exact .inr (.inl ⟨c, rest, hp, hr, by simpa using h.symm⟩)
    · next hr =>
      have hr : c.rst = false := by simpa using hr
      split at h
      · next ha =>
        split at h
        · next hs =>
          cases he : exec (decode c.cmdWord) { s with port := rest } with
          | next u => exact .inr (.inr (.inr ⟨c, rest, u, hp, hr, ha, hs, he, by simpa [clockAfter, he] using h.symm⟩))
          | fault r => nomatch r
          | refused r => simp [clockAfter, he] at h
        · simp at h
      · next ha => exact .inr (.inr (.inl ⟨c, rest, hp, hr, by simpa using ha, by simpa using h.symm⟩))

theorem step_of_command {s : State} {c : PortCycle} {rest : List PortCycle} (hp : s.port = c :: rest)
    (hr : c.rst = false) (ha : c.accepts = true) (hs : s.rstSeen = true) :
    step s = clockAfter (exec (decode c.cmdWord) { s with port := rest }) := by
  simp [step, hp, hr, ha, hs]

/-- A run of any machine whose first step answers goes on from that answer. -/
theorem run_succ (M : Host.Core) {n : Nat} {s t : M.State} (h : M.step s = .next t) : M.run (n + 1) s = M.run n t := by
  simp only [Host.Core.run, h]

/-- The same for this machine, in terms of `step`. -/
theorem core_run_succ {n : Nat} {s t : State} (h : step s = .next t) : core.run (n + 1) s = core.run n t :=
  run_succ core h

end Sys2Proof.Machine
end

