-- ==== Sys2Proof/Laws/Claims.lean ====
section
/-!
SUPPORT. Small lemmas about the predicates the claims are stated with.
-/

namespace Sys2Proof.Machine

/-- A command's response is determined by the two states. -/
theorem Answers.unique {s t : State} {r r' : Response} (h : Answers s t r) (h' : Answers s t r') : r = r' := by
  unfold Answers at h h'
  rw [h] at h'
  simpa using h'

/-- Replacing a session and answering touches that session and the responses in flight alone. -/
theorem changesOnlySession_set (s : State) (k : Nat) (x : Session) (r : Response) :
    ChangesOnlySession k s ((s.setSession k x).respond r) :=
  ⟨fun _ hj => State.setSession_get_other s hj x, by simp, rfl, rfl, rfl, rfl⟩

/-- Answering touches the responses in flight alone. -/
theorem changesOnlySession_respond (s : State) (k : Nat) (r : Response) : ChangesOnlySession k s (s.respond r) :=
  ⟨fun _ _ => rfl, rfl, rfl, rfl, rfl, rfl⟩

/-- The session index of a command is the one its meaning is given. -/
theorem sid_eq_sessionIndex (i : Instr) : i.sid = sessionIndex i := by
  cases i <;> rfl

/-- Running a list of commands after another. -/
theorem execAll_append {is js : List Instr} {s t : State} (h : execAll is s = .next t) :
    execAll (is ++ js) s = execAll js t := by
  induction is generalizing s with
  | nil => cases h; rfl
  | cons i is ih =>
    simp only [execAll, List.cons_append] at h ⊢
    cases hi : exec i s with
    | next u => simp only [hi] at h ⊢; exact ih h
    | fault r => nomatch r
    | refused r => simp [hi] at h

end Sys2Proof.Machine
end

