-- ==== Sys2Proof/Laws/PerInstr.lean ====
section
/-!
SUPPORT. The family EncodedFields: where each command's opcode, session index and DATA stand in its word
(spec/30_encoding.md R70).
-/

namespace Sys2Proof

theorem opField_append (op sid : BitVec 4) (data : BitVec 8) : opField (op ++ sid ++ data) = op := by
  apply BitVec.eq_of_getLsbD_eq
  intro k hk
  simp only [opField, BitVec.getLsbD_extractLsb', BitVec.getLsbD_append]
  simp [hk, show ¬12 + k < 8 by omega, show ¬12 + k - 8 < 4 by omega, show 12 + k - 8 - 4 = k by omega]

theorem sidField_append (op sid : BitVec 4) (data : BitVec 8) : sidField (op ++ sid ++ data) = sid.toNat := by
  unfold sidField
  congr 1
  apply BitVec.eq_of_getLsbD_eq
  intro k hk
  simp only [BitVec.getLsbD_extractLsb', BitVec.getLsbD_append]
  simp [hk, show ¬8 + k < 8 by omega]

theorem dataField_append (op sid : BitVec 4) (data : BitVec 8) : dataField (op ++ sid ++ data) = data := by
  apply BitVec.eq_of_getLsbD_eq
  intro k hk
  simp only [dataField, BitVec.getLsbD_extractLsb', BitVec.getLsbD_append]
  simp [hk]

namespace Laws.EncodedFields

/-- The three fields of a command's word are its opcode, its session index and its DATA. -/
def Statement (i : Instr) : Prop :=
  opField (encode i) = i.opcode ∧ (i.WellFormed → sidField (encode i) = i.sid) ∧ dataField (encode i) = i.data

theorem of_fields (i : Instr) : Statement i :=
  ⟨opField_append _ _ _, fun h => by
    rw [encode, sidField_append, BitVec.toNat_ofNat, Nat.mod_eq_of_lt h], dataField_append _ _ _⟩

theorem reset (sid : Nat) (data : BitVec 8) : Statement (.reset sid data) := of_fields _
theorem bit (sid : Nat) (data : BitVec 8) : Statement (.bit sid data) := of_fields _
theorem decode (sid : Nat) (data : BitVec 8) : Statement (.decode sid data) := of_fields _
theorem rdf (sid : Nat) (data : BitVec 8) : Statement (.rdf sid data) := of_fields _
theorem rdi (sid : Nat) (data : BitVec 8) : Statement (.rdi sid data) := of_fields _
theorem rdu (sid : Nat) (data : BitVec 8) : Statement (.rdu sid data) := of_fields _
theorem illegal0 (sid : Nat) (data : BitVec 8) : Statement (.illegal0 sid data) := of_fields _
theorem illegal7 (sid : Nat) (data : BitVec 8) : Statement (.illegal7 sid data) := of_fields _
theorem illegal8 (sid : Nat) (data : BitVec 8) : Statement (.illegal8 sid data) := of_fields _
theorem illegal9 (sid : Nat) (data : BitVec 8) : Statement (.illegal9 sid data) := of_fields _
theorem illegalA (sid : Nat) (data : BitVec 8) : Statement (.illegalA sid data) := of_fields _
theorem illegalB (sid : Nat) (data : BitVec 8) : Statement (.illegalB sid data) := of_fields _
theorem illegalC (sid : Nat) (data : BitVec 8) : Statement (.illegalC sid data) := of_fields _
theorem illegalD (sid : Nat) (data : BitVec 8) : Statement (.illegalD sid data) := of_fields _
theorem illegalE (sid : Nat) (data : BitVec 8) : Statement (.illegalE sid data) := of_fields _
theorem illegalF (sid : Nat) (data : BitVec 8) : Statement (.illegalF sid data) := of_fields _

end Laws.EncodedFields

end Sys2Proof
end

