-- ==== Sys2Proof/Laws/Encoding.lean ====
section
/-!
SUPPORT. A command word is its three fields, and decoding reads each of them (spec/30_encoding.md R70, R72).
-/

namespace Sys2Proof

/-- A word put together from its three fields. -/
theorem word_of_fields (w : CmdWord) : (opField w ++ w.extractLsb' 8 4 ++ dataField w : BitVec 16) = w := by
  apply BitVec.eq_of_getLsbD_eq
  intro k hk
  simp only [opField, dataField, BitVec.getLsbD_append, BitVec.getLsbD_extractLsb']
  by_cases h1 : k < 8
  · simp [h1]
  · by_cases h2 : k - 8 < 4
    · simp [h1, h2, show 8 + (k - 8) = k by omega]
    · simp [h1, h2, show 12 + (k - 8 - 4) = k by omega]
      omega

@[simp] theorem ofFields_opcode (op : Nibble) (sid : Nat) (data : BitVec 8) : (ofFields op sid data).opcode = op := by
  have hlt : op.toNat < 16 := op.isLt
  apply BitVec.eq_of_toNat_eq
  unfold ofFields
  split <;> simp_all [Instr.opcode]
  omega

@[simp] theorem ofFields_sid (op : Nibble) (sid : Nat) (data : BitVec 8) : (ofFields op sid data).sid = sid := by
  unfold ofFields; split <;> rfl

@[simp] theorem ofFields_data (op : Nibble) (sid : Nat) (data : BitVec 8) : (ofFields op sid data).data = data := by
  unfold ofFields; split <;> rfl

theorem decode_opcode (w : CmdWord) : (decode w).opcode = opField w := ofFields_opcode _ _ _

theorem decode_sid (w : CmdWord) : (decode w).sid = sidField w := ofFields_sid _ _ _

theorem decode_data (w : CmdWord) : (decode w).data = dataField w := ofFields_data _ _ _

/-- A command is determined by its three fields. -/
theorem ofFields_of (i : Instr) : ofFields i.opcode i.sid i.data = i := by
  cases i <;> rfl

theorem sidField_lt (w : CmdWord) : sidField w < 16 := (w.extractLsb' 8 4).isLt

/-- The bits a table row looks at are the opcode field. -/
theorem and_opMask (w : CmdWord) : w &&& 0xF000#16 = opField w ++ 0#12 := by
  apply BitVec.eq_of_getLsbD_eq
  intro k hk
  have hm : ∀ k : Fin 16, (0xF000#16).getLsbD k = decide (12 ≤ k.val) := by decide
  rw [BitVec.getLsbD_and, hm ⟨k, hk⟩, BitVec.getLsbD_append]
  by_cases h : k < 12
  · simp [h, show ¬12 ≤ k by omega]
  · simp [opField, h, show 12 + (k - 12) = k by omega, show 12 ≤ k by omega, show k - 12 < 4 by omega]

theorem opField_eq_shift (w : CmdWord) : (opField w).toNat = (w >>> 12).toNat := by
  have := w.isLt
  simp only [opField, BitVec.extractLsb'_toNat, BitVec.toNat_ushiftRight, Nat.shiftRight_eq_div_pow]
  omega

theorem sidField_eq_shift (w : CmdWord) : sidField w = ((w >>> 8) &&& 0xF#16).toNat := by
  have h : ∀ n : Nat, n &&& 15 = n % 16 := fun n => by
    simpa using Nat.and_two_pow_sub_one_eq_mod n 4
  simp [sidField, BitVec.extractLsb'_toNat, h]

end Sys2Proof
end

