-- ==== Sys2Proof/Laws/Float.lean ====
section
/-!
SUPPORT. What the rounded division and the choice of the binade do, said once (spec/93_implementation_defined.md G2).
-/

namespace Sys2Proof.Machine

/-- Rounded division is off by at most half the divisor, and by exactly half only when its result is even. -/
theorem roundDivEven_spec (n d : Nat) (hd : 0 < d) :
    ((roundDivEven n d * d : Int) - n).natAbs * 2 ≤ d ∧
      (((roundDivEven n d * d : Int) - n).natAbs * 2 = d → roundDivEven n d % 2 = 0) := by
  have h1 := Nat.div_add_mod n d
  have h2 := Nat.mod_lt n hd
  unfold roundDivEven
  simp only
  set q := n / d
  set r := n % d
  have hn : (n : Int) = d * q + r := by exact_mod_cast h1.symm
  have down : ((q * d : Int) - n) = -(r : Int) := by rw [hn]; ring
  have up : (((q + 1 : Nat) * d : Int) - n) = (d : Int) - r := by rw [hn]; push_cast; ring
  split
  · rw [down]; omega
  · split
    · rw [up]; omega
    · rcases Nat.mod_two_eq_zero_or_one q with h | h
      · rw [h, Nat.add_zero, down]; omega
      · rw [h, up]; omega

/-- The binade of a quotient: its significand in units of the binade's spacing has 24 bits, or the binade is the lowest. -/
theorem binade_spec (m d : Nat) (hd : 0 < d) :
    (binade m d = 0 ∨ 2 ^ 23 * (d * 2 ^ binade m d) ≤ m * 2 ^ 149) ∧
      m * 2 ^ 149 < 2 ^ 24 * (d * 2 ^ binade m d) := by
  have ht : binade m d = Nat.log2 (m * 2 ^ 126 / d) := rfl
  have e : m * 2 ^ 149 = m * 2 ^ 126 * 2 ^ 23 := by ring
  constructor
  · by_cases h0 : m * 2 ^ 126 / d = 0
    · left; rw [ht, h0]; rfl
    · right
      have h1 : 2 ^ binade m d ≤ m * 2 ^ 126 / d := ht ▸ Nat.log2_self_le h0
      have h2 : 2 ^ binade m d * d ≤ m * 2 ^ 126 := (Nat.le_div_iff_mul_le hd).1 h1
      calc _ = 2 ^ binade m d * d * 2 ^ 23 := by ring
        _ ≤ m * 2 ^ 126 * 2 ^ 23 := Nat.mul_le_mul_right _ h2
        _ = _ := e.symm
  · have h1 : m * 2 ^ 126 / d < 2 ^ (binade m d + 1) := by rw [ht]; exact Nat.lt_log2_self
    have h2 : m * 2 ^ 126 < 2 ^ (binade m d + 1) * d := (Nat.div_lt_iff_lt_mul hd).1 h1
    calc _ = m * 2 ^ 126 * 2 ^ 23 := e
      _ < 2 ^ (binade m d + 1) * d * 2 ^ 23 := Nat.mul_lt_mul_of_pos_right h2 (by norm_num)
      _ = _ := by rw [pow_succ]; ring

/-- A rounded quotient has a clear sign bit. -/
@[simp] theorem rne32_sign (num den : Nat) : (rne32 num den)[31] = false := by
  have key : ∀ v : Nat, v < 2 ^ 31 → (BitVec.ofNat 32 v)[31] = false := by
    intro v hv
    rw [← BitVec.getLsbD_eq_getElem, BitVec.getLsbD_ofNat, Nat.testBit_lt_two_pow hv, Bool.and_false]
  exact key _ (lt_of_le_of_lt (Nat.min_le_right _ _) (by norm_num))

/-- Negation inverts the sign bit. -/
@[simp] theorem neg32_sign (f : BitVec 32) : (neg32 f)[31] = !f[31] := by
  simp [neg32]

/-- Negation keeps every bit below the sign bit. -/
@[simp] theorem neg32_magnitude (f : BitVec 32) : (neg32 f).extractLsb' 0 31 = f.extractLsb' 0 31 := by
  ext i hi
  interval_cases i <;> simp [neg32]

end Sys2Proof.Machine
end

