-- ==== Sys2Proof/Tests/Slice0.lean ====
section
/-!
SUPPORT. The model's own tests. Expected values come from spec/30_encoding.md R82 and opcode_table.json (words) and from
spec/95_test_vectors.md (W, RS, BT, DC and RD vectors). After them, one witness for the hypotheses of each statement.
-/

namespace Sys2Proof.Tests

open Sys2Proof Sys2Proof.Config Sys2Proof.Machine

/-! ### Well-formedness -/

/-- A session index above the 4-bit SID field is refused by the check (30_encoding.md R70). -/
theorem test_sid_16_is_ill_formed : ¬(Instr.reset 16 0x00#8).WellFormed := by decide

theorem test_sid_15_is_well_formed : (Instr.reset 15 0x00#8).WellFormed := by decide

/-- A set ignored bit is not the assembler's form (30_encoding.md R75). -/
theorem test_bit_with_ignored_bit_is_not_canonical : ¬(Instr.bit 0 0x03#8).Canonical := by decide

/-! ### Decoding: words written out from `OOOO SSSS DDDD DDDD` (30_encoding.md R70) -/

theorem test_decode_reset : decode 0b0001001110100101#16 = .reset 3 0b10100101#8 := by decide
theorem test_decode_bit : decode 0b0010000000000001#16 = .bit 0 0b00000001#8 := by decide
theorem test_decode_decode : decode 0b0011111100000000#16 = .decode 15 0b00000000#8 := by decide
theorem test_decode_rdf : decode 0b0100000100000000#16 = .rdf 1 0b00000000#8 := by decide
theorem test_decode_rdi : decode 0b0101001000000000#16 = .rdi 2 0b00000000#8 := by decide
theorem test_decode_rdu : decode 0b0110000011111111#16 = .rdu 0 0b11111111#8 := by decide
theorem test_decode_illegal0 : decode 0b0000000000000000#16 = .illegal0 0 0b00000000#8 := by decide
theorem test_decode_illegal7 : decode 0b0111000000000000#16 = .illegal7 0 0b00000000#8 := by decide
theorem test_decode_illegal8 : decode 0b1000000100100011#16 = .illegal8 1 0b00100011#8 := by decide
theorem test_decode_illegal9 : decode 0b1001111100000000#16 = .illegal9 15 0b00000000#8 := by decide
theorem test_decode_illegalA : decode 0b1010000000000001#16 = .illegalA 0 0b00000001#8 := by decide
theorem test_decode_illegalB : decode 0b1011000000000000#16 = .illegalB 0 0b00000000#8 := by decide
theorem test_decode_illegalC : decode 0b1100000000000000#16 = .illegalC 0 0b00000000#8 := by decide
theorem test_decode_illegalD : decode 0b1101000000000000#16 = .illegalD 0 0b00000000#8 := by decide
theorem test_decode_illegalE : decode 0b1110000011111111#16 = .illegalE 0 0b11111111#8 := by decide
theorem test_decode_illegalF : decode 0b1111111111111111#16 = .illegalF 15 0b11111111#8 := by decide

theorem test_table_word_row : decodeTableWord 16 0x2301 = some (.bit 3 0x01#8) := by decide

/-- There is one command length (30_encoding.md R71). -/
theorem test_table_word_too_long : decodeTableWord 32 0x2301 = none := by decide

theorem test_assembler_text : (AsmLine.bit 3 1#8).text = "BIT 3, 1" := by decide

/-! ### One command on a small state -/

/-- A session with the given counters and nothing stored. -/
def counting (bitCnt : BitVec 2) (acc : Nibble) (nibCnt : BitVec 4) : Session :=
  { Session.zeroed with bitCnt := bitCnt, acc := acc, nibCnt := nibCnt }

/-- A session with a complete frame and no result. -/
def framed (buf : Vector Nibble 13) : Session := { Session.zeroed with nibCnt := 13#4, buf := buf }

/-- A block of one session. -/
def one (x : Session) : State := { State.reset with sessions := [x] }

/-- The same, built with `STRICT_BCD`. -/
def oneStrict (x : Session) : State := { one x with params := { strictBcd := true, lat := 1 } }

/-- The session contents and the response after a command, `none` where it does not answer. -/
def after (i : Instr) (s : State) : Option (List Session × List Response) :=
  match exec i s with
  | .next t => some (t.sessions, t.inFlight.map Pending.resp)
  | .fault _ => none
  | .refused _ => none

/-- The source's example frame (95_test_vectors.md W1). -/
def frameW1 : Vector Nibble 13 := #v[0xF, 0xF, 0xF, 0xF, 0, 1, 2, 3, 4, 5, 6, 2, 0]

/-- Its result: 0x449A51EC, 123456, two decimals, millimetres (W1, DC1). -/
def resultW1 : ResultRegs :=
  { f32 := 0x449A51EC#32, int := 0x0001E240#32, dp := 2#4, unit := .mm, rawUnit := 0#4,
    sign := false, oor := false, valid := true }

/-- A frame of −1.270 inch (DC27). -/
def frameDC27 : Vector Nibble 13 := #v[0xF, 0xF, 0xF, 0xF, 8, 0, 0, 1, 2, 7, 0, 3, 1]

/-- DC27 decoded. -/
def decodedDC27 : Session :=
  { framed frameDC27 with
    res := { f32 := 0xBFA28F5C#32, int := 0xFFFFFB0A#32, dp := 3#4, unit := .inch, rawUnit := 1#4,
             sign := true, oor := false, valid := true } }

/-- RS1: RESET in the middle of a nibble. -/
theorem test_reset_mid_nibble :
    after (.reset 0 0#8) (one (counting 2#2 0x3#4 0#4)) = some ([Session.zeroed], [⟨.success, 0#32⟩]) := by decide

/-- RS5: RESET of a session that does not exist. -/
theorem test_reset_absent_session :
    after (.reset 1 0#8) (one (counting 1#2 0x1#4 0#4)) =
      some ([counting 1#2 0x1#4 0#4], [⟨.errInvalidSession, 0#32⟩]) := by decide

/-- BT2: the second bit, a 1, lands at position 1; the ignored bits are set here. -/
theorem test_bit_second_position :
    after (.bit 0 0xFF#8) (one (counting 1#2 0x0#4 0#4)) = some ([counting 2#2 0x2#4 0#4], [⟨.ongoing, 0#32⟩]) := by
  decide

/-- BT7: the 52nd bit completes the 13th nibble. -/
theorem test_bit_completes_frame :
    (after (.bit 0 1#8) (one (counting 3#2 0x7#4 12#4))).map (fun p => (p.1.map fun x => (x.nibCnt, x.buf[12]), p.2)) =
      some ([(13#4, 0xF#4)], [⟨.frameComplete, 0#32⟩]) := by decide

/-- DC1: the source's worked example. -/
theorem test_decode_w1 :
    after (.decode 0 0#8) (one (framed frameW1)) =
      some ([{ framed frameW1 with res := resultW1 }], [⟨.success, 0#32⟩]) := by decide +kernel

/-- DC27: a negative frame, the sign bit of the float set and the mantissa in two's complement. -/
theorem test_decode_negative :
    after (.decode 0 0#8) (one (framed frameDC27)) = some ([decodedDC27], [⟨.success, 0#32⟩]) := by decide +kernel

/-- DC23: strict mode refuses out-of-range digits. -/
theorem test_decode_strict :
    (after (.decode 0 0#8)
      (oneStrict (framed #v[0xF, 0xF, 0xF, 0xF, 0, 0xF, 0xF, 0xF, 0xF, 0xF, 0xF, 0, 0]))).map Prod.snd =
      some [⟨.errInvalidFrameData, 0#32⟩] := by decide

/-- DC17, the example of 93_implementation_defined.md I3: one rounding gives ...25, not ...26. -/
theorem test_rne32_single_rounding : rne32 77 (10 ^ 12) = 0x2EA95325#32 := by decide

/-- RD4. -/
theorem test_rdf : (after (.rdf 0 0#8) (one decodedDC27)).map Prod.snd = some [⟨.success, 0xBFA28F5C#32⟩] := by decide

/-- RD5. -/
theorem test_rdi : (after (.rdi 0 0#8) (one decodedDC27)).map Prod.snd = some [⟨.success, 0xFFFFFB0A#32⟩] := by decide

/-- RD7. -/
theorem test_rdu : (after (.rdu 0 0xFF#8) (one decodedDC27)).map Prod.snd = some [⟨.success, 0x00009311#32⟩] := by decide

/-- IL12: an illegal opcode names an absent session and still answers ERR_ILLEGAL_COMMAND. -/
theorem test_illegal0 :
    after (.illegal0 15 0#8) (one (counting 1#2 0x1#4 0#4)) =
      some ([counting 1#2 0x1#4 0#4], [⟨.errIllegalCommand, 0#32⟩]) := by decide

/-! ### Steps -/

/-- From reset the first command runs at once, and with `LAT` = 1 its response is presented in the next cycle. -/
theorem test_step_first_command :
    step (State.reset.withFetchWord 16 0x2001) =
      .next { one (counting 1#2 0x1#4 0#4) with rsp := some ⟨.ongoing, 0#32⟩ } := by rfl

/-- The response channel holds a response for one cycle (70_reset_and_hazards.md R260). -/
theorem test_step_response_gone :
    step { one Session.zeroed with rsp := some ⟨.ongoing, 0#32⟩ } = .next (one Session.zeroed) := by rfl

/-- An edge with `rst` asserted. -/
def rstEdge : PortCycle := { rst := true, cmdValid := false, cmdReady := false, cmdWord := 0#16 }

/-- An edge on which the host offers a command and the block is not ready. -/
def stallEdge : PortCycle := { rst := false, cmdValid := true, cmdReady := false, cmdWord := 0x1000#16 }

theorem test_step_rst :
    step { one (counting 2#2 0x3#4 5#4) with port := [rstEdge], inFlight := [⟨1, ⟨.ongoing, 0#32⟩⟩], rstSeen := false } =
      .next (one Session.zeroed) := by rfl

/-! ### Witnesses: each meets the hypotheses of the statement named after it -/

theorem zeroed_inv : Session.zeroed.Inv :=
  ⟨by decide, by decide, by decide, by decide, by decide, by decide⟩

theorem zeroed_accepted (strict : Bool) : Session.zeroed.ResultFrameAccepted strict := by
  intro h; cases h

/-- A block of two sessions with `LAT` = 3, a command at the coming edge, a stalled edge and an idle one after it. -/
def busy : State :=
  { State.resetOf 2 { strictBcd := true, lat := 3 } with
    port := [PortCycle.command 0x3100#16, stallEdge, { stallEdge with cmdValid := false }] }

theorem busy_inv : busy.Inv :=
  ⟨by decide, by decide, rfl,
    by intro x hx; simp [busy, State.resetOf] at hx; rw [hx]; exact ⟨zeroed_inv, zeroed_accepted _⟩,
    by decide, by decide⟩

theorem witness_DecodeEncodeGivesCommandBack : (Instr.bit 15 0xFF#8).WellFormed := by decide

theorem witness_StepRunsDecodedCommand :
    busy.port = PortCycle.command 0x3100#16 :: busy.port.tail ∧ (PortCycle.command 0x3100#16).rst = false ∧
      (PortCycle.command 0x3100#16).cmdValid = true ∧ (PortCycle.command 0x3100#16).cmdReady = true ∧
      busy.rstSeen = true ∧ decode (PortCycle.command 0x3100#16).cmdWord = .decode 1 0#8 := by decide

/-- A stalled edge and an edge after the end of the port list, each with every case of the responses in flight. -/
theorem witness_EdgeWithoutTransferOnlyMovesResponses :
    ∀ port ∈ [[stallEdge], []],
      (∀ c rest, port = c :: rest → c.rst = false ∧ ¬(c.cmdValid = true ∧ c.cmdReady = true)) ∧
      ∀ q ∈ [[], [⟨1, ⟨.ongoing, 0#32⟩⟩], [⟨0 + 2, ⟨.ongoing, 0#32⟩⟩]],
        ∃ s : State, s.port = port ∧ s.inFlight = q := by
  intro port hp
  refine ⟨?_, fun q _ => ⟨{ busy with port := port, inFlight := q }, rfl, rfl⟩⟩
  rintro c rest rfl
  obtain ⟨rfl, rfl⟩ : c = stallEdge ∧ rest = [] := by simpa using hp
  decide

theorem witness_HardwareResetZeroesEverySession :
    ({ busy with port := [rstEdge] } : State).port = [rstEdge] ∧ rstEdge.rst = true := ⟨rfl, rfl⟩

theorem witness_HardwareResetIsResetOfEachSession :
    ({ busy with port := [rstEdge] } : State).port = [rstEdge] ∧ rstEdge.rst = true := ⟨rfl, rfl⟩

theorem witness_CommandBeforeFirstResetRefused :
    ({ busy with rstSeen := false } : State).port = PortCycle.command 0x3100#16 :: busy.port.tail ∧
      (PortCycle.command 0x3100#16).rst = false ∧ (PortCycle.command 0x3100#16).cmdValid = true ∧
      (PortCycle.command 0x3100#16).cmdReady = true ∧ ({ busy with rstSeen := false } : State).rstSeen = false := by
  decide

theorem witness_ResponseComesLatEdgesAfterAcceptance :
    busy.Inv ∧ busy.port = PortCycle.command 0x3100#16 :: (busy.port.tail ++ []) ∧
      busy.port.tail.length + 1 = busy.params.lat ∧ (PortCycle.command 0x3100#16).rst = false ∧
      (PortCycle.command 0x3100#16).cmdValid = true ∧ (PortCycle.command 0x3100#16).cmdReady = true ∧
      ∀ d ∈ busy.port.tail, d.rst = false :=
  ⟨busy_inv, by decide, by decide, by decide, by decide, by decide, by decide⟩

theorem witness_InvariantHoldsAtReset :
    1 ≤ 16 ∧ 16 ≤ 16 ∧ 1 ≤ ({ strictBcd := true, lat := 1 } : Params).lat := by decide

theorem witness_StepKeepsInvariant : busy.Inv ∧ ∃ t, step busy = .next t := ⟨busy_inv, _, rfl⟩

theorem witness_StepKeepsBuildParameters : ∃ t, step busy = .next t := ⟨_, rfl⟩

theorem witness_StepAlwaysAnswersAfterReset : busy.Inv := busy_inv

theorem witness_ErrorsChangeNothing :
    ∃ t r, exec (.decode 1 0#8) busy = .next t ∧ Answers busy t r ∧ r.status.code.getLsbD 3 = true :=
  ⟨_, ⟨.errInvalidState, 0#32⟩, rfl, rfl, by decide⟩

/-- Also a response with data other than 0, the statement's second clause. -/
theorem witness_ResponsesAreThoseListed :
    ∃ t r, exec (.rdu 0 0#8) (one decodedDC27) = .next t ∧ Answers (one decodedDC27) t r ∧ r.data ≠ 0#32 :=
  ⟨_, ⟨.success, infoWord decodedDC27.res⟩, rfl, rfl, by decide⟩

theorem witness_IllegalOpcodesAnswerIllegalCommand :
    Instr.illegalF 15 0#8 ∈ [Instr.illegal0 15 0#8, .illegal7 15 0#8, .illegal8 15 0#8, .illegal9 15 0#8,
      .illegalA 15 0#8, .illegalB 15 0#8, .illegalC 15 0#8, .illegalD 15 0#8, .illegalE 15 0#8, .illegalF 15 0#8] := by
  decide

theorem witness_AbsentSessionAnswersInvalidSession :
    busy.nsess ≤ 2 ∧ Instr.rdu 2 0#8 ∈
      [Instr.reset 2 0#8, .bit 2 0#8, .decode 2 0#8, .rdf 2 0#8, .rdi 2 0#8, .rdu 2 0#8] := by decide

/-- Boundary values of each clause: opcodes 0, 7 and 15 illegal; 1, 2, 3, 4 and 6 legal, on an absent session, a session with
13 and with 12 nibbles, a wrong header, an out-of-range digit under `STRICT_BCD` and a good frame. -/
theorem witness_FirstErrorInOrderIsReported :
    (0x0F00#16 >>> 12).toNat = 0 ∧ 7 ≤ (0x7000#16 >>> 12).toNat ∧ 7 ≤ (0xF000#16 >>> 12).toNat ∧
      busy.nsess ≤ ((0x1200#16 >>> 8) &&& 0xF#16).toNat ∧ (0x1200#16 >>> 12).toNat = 1 ∧
      (0x2000#16 >>> 12).toNat = 2 ∧ 13 ≤ (counting 0#2 0#4 13#4).nibCnt.toNat ∧
      (counting 0#2 0#4 12#4).nibCnt.toNat < 13 ∧
      (0x3000#16 >>> 12).toNat = 3 ∧ (counting 0#2 0#4 12#4).nibCnt ≠ 13#4 ∧
      (∃ i : Fin 13, i.val < 4 ∧ (counting 0#2 0#4 13#4).buf[i] ≠ 0xF#4) ∧
      (∀ i : Fin 13, i.val < 4 → (framed frameW1).buf[i] = 0xF#4) ∧ (framed frameW1).nibCnt = 13#4 ∧
      ¬((one (framed frameW1)).params.strictBcd = true ∧
        ∃ i : Fin 13, 5 ≤ i.val ∧ i.val ≤ 10 ∧ 9 < ((framed frameW1).buf[i]).toNat) ∧
      (oneStrict (framed (frameW1.set 10 0xA#4))).params.strictBcd = true ∧
      (∃ i : Fin 13, 5 ≤ i.val ∧ i.val ≤ 10 ∧ 9 < ((framed (frameW1.set 10 0xA#4)).buf[i]).toNat) ∧
      (∀ i : Fin 13, i.val < 4 → (framed (frameW1.set 10 0xA#4)).buf[i] = 0xF#4) ∧
      4 ≤ (0x4000#16 >>> 12).toNat ∧ (0x6000#16 >>> 12).toNat ≤ 6 := by decide

theorem witness_OnlyFrameDataErrorsDependOnTheFrame :
    ((one (framed frameW1)).sessions[0]?).map (fun x => (x.bitCnt, x.nibCnt)) =
        ((one (framed frameDC27)).sessions[0]?).map (fun x => (x.bitCnt, x.nibCnt)) ∧
      ∃ t t' r r', exec (.decode 0 0#8) (one (framed frameW1)) = .next t ∧
        exec (.decode 0 0#8) (one (framed frameDC27)) = .next t' ∧ Answers (one (framed frameW1)) t r ∧
        Answers (one (framed frameDC27)) t' r' ∧ r.status ≠ .errInvalidFrameData ∧ r'.status ≠ .errInvalidFrameData :=
  ⟨by decide, _, _, ⟨.success, 0#32⟩, ⟨.success, 0#32⟩, rfl, rfl, rfl, rfl, by decide, by decide⟩

/-- Two states that differ in session 1 alone. -/
theorem witness_CommandsDependOnTheirSessionOnly :
    ∃ s s' t t' r r', s.params = s'.params ∧ s.sessions[(Instr.bit 0 1#8).sid]? = s'.sessions[(Instr.bit 0 1#8).sid]? ∧
      s ≠ s' ∧ exec (.bit 0 1#8) s = .next t ∧ exec (.bit 0 1#8) s' = .next t' ∧ Answers s t r ∧ Answers s' t' r' :=
  ⟨busy, busy.setSession 1 decodedDC27, _, _, ⟨.ongoing, 0#32⟩, ⟨.ongoing, 0#32⟩, rfl, rfl, by decide, rfl, rfl, rfl, rfl⟩

theorem witness_OnlyDecodeAndResetWriteResults :
    ∃ t x y r, exec (.decode 0 0#8) (one (framed frameW1)) = .next t ∧ Answers (one (framed frameW1)) t r ∧
      (one (framed frameW1)).sessions[0]? = some x ∧ t.sessions[0]? = some y ∧ y.res ≠ x.res :=
  ⟨_, framed frameW1, { framed frameW1 with res := decodedResult frameW1 }, ⟨.success, 0#32⟩, rfl, rfl, rfl, rfl, by decide⟩

theorem witness_OnlyBitAndResetWriteSessionState :
    ∃ t x y, exec (.bit 0 1#8) (one Session.zeroed) = .next t ∧ (one Session.zeroed).sessions[0]? = some x ∧
      t.sessions[0]? = some y ∧ (y.bitCnt, y.acc, y.nibCnt, y.buf) ≠ (x.bitCnt, x.acc, x.nibCnt, x.buf) :=
  ⟨_, Session.zeroed, counting 1#2 1#4 0#4, rfl, rfl, rfl, by decide⟩

theorem witness_ResetZeroesItsSession : (one decodedDC27).sessions[0]? = some decodedDC27 := rfl

theorem witness_ResetForgetsHistory :
    ∃ t t' u, 0 < (one decodedDC27).nsess ∧ 0 < (one Session.zeroed).nsess ∧
      exec (.reset 0 0#8) (one decodedDC27) = .next t ∧ exec (.reset 0 0#8) (one Session.zeroed) = .next t' ∧
      exec (.reset 0 0#8) t = .next u := ⟨_, _, _, by decide, by decide, rfl, rfl, rfl⟩

/-- The last bit before the fourth, in the last nibble. -/
theorem witness_BitPlacesOneBit :
    (one (counting 2#2 3#4 12#4)).sessions[0]? = some (counting 2#2 3#4 12#4) ∧
      (counting 2#2 3#4 12#4).nibCnt.toNat < 13 ∧ (counting 2#2 3#4 12#4).bitCnt.toNat < 3 := by decide

/-- A nibble in the middle and the last one. -/
theorem witness_FourthBitStoresNibble :
    ((one (counting 3#2 7#4 11#4)).sessions[0]? = some (counting 3#2 7#4 11#4) ∧
      (counting 3#2 7#4 11#4).nibCnt.toNat < 13 ∧ (counting 3#2 7#4 11#4).bitCnt.toNat = 3) ∧
    (one (counting 3#2 7#4 12#4)).sessions[0]? = some (counting 3#2 7#4 12#4) ∧
      (counting 3#2 7#4 12#4).nibCnt.toNat = 12 ∧ (counting 3#2 7#4 12#4).bitCnt.toNat = 3 := by decide

theorem witness_BitOnFullBufferRefusedByStatus :
    (one (counting 0#2 0#4 13#4)).sessions[0]? = some (counting 0#2 0#4 13#4) ∧
      13 ≤ (counting 0#2 0#4 13#4).nibCnt.toNat := by decide

theorem witness_FiftyTwoBitsFillTheBuffer :
    busy.sessions[1]? = some Session.zeroed ∧
      ∀ j ∈ [Instr.decode 1 0#8, .bit 1 1#8, .reset 0 0#8], j.sid = 1 → j.mnemonic ≠ "RESET" := by decide

/-- Both clauses: a BIT that completes the frame, and a DECODE. -/
theorem witness_StatusesRevealTheNibbleCount :
    (∃ t y r, exec (.bit 0 1#8) (one (counting 3#2 7#4 12#4)) = .next t ∧
      (one (counting 3#2 7#4 12#4)).sessions[0]? = some (counting 3#2 7#4 12#4) ∧ t.sessions[0]? = some y ∧
      Answers (one (counting 3#2 7#4 12#4)) t r) ∧
    ∃ t y r, exec (.decode 0 0#8) (one (framed frameW1)) = .next t ∧
      (one (framed frameW1)).sessions[0]? = some (framed frameW1) ∧ t.sessions[0]? = some y ∧
      Answers (one (framed frameW1)) t r :=
  ⟨⟨_, _, ⟨.frameComplete, 0#32⟩, rfl, rfl, rfl, rfl⟩, ⟨_, _, ⟨.success, 0#32⟩, rfl, rfl, rfl, rfl⟩⟩

theorem witness_DecodeOfIncompleteFrame :
    (one (counting 3#2 0#4 12#4)).sessions[0]? = some (counting 3#2 0#4 12#4) ∧
      (counting 3#2 0#4 12#4).nibCnt ≠ 13#4 := by decide

/-- DC20: header nibble 3 is 0xE. -/
theorem witness_DecodeOfWrongHeader :
    (one (framed (frameW1.set 3 0xE#4))).sessions[0]? = some (framed (frameW1.set 3 0xE#4)) ∧
      (framed (frameW1.set 3 0xE#4)).nibCnt = 13#4 ∧
      ∃ i : Fin 13, i.val < 4 ∧ (framed (frameW1.set 3 0xE#4)).buf[i] ≠ 0xF#4 := by decide

theorem witness_StrictDecodeOfOutOfRangeDigit :
    (oneStrict (framed (frameW1.set 10 0xA#4))).sessions[0]? = some (framed (frameW1.set 10 0xA#4)) ∧
      (framed (frameW1.set 10 0xA#4)).nibCnt = 13#4 ∧
      (∀ i : Fin 13, i.val < 4 → (framed (frameW1.set 10 0xA#4)).buf[i] = 0xF#4) ∧
      (oneStrict (framed (frameW1.set 10 0xA#4))).params.strictBcd = true ∧
      ∃ i : Fin 13, 5 ≤ i.val ∧ i.val ≤ 10 ∧ 9 < ((framed (frameW1.set 10 0xA#4)).buf[i]).toNat := by decide

/-- With `STRICT_BCD`, so that its hypothesis is used. -/
theorem witness_DecodeWritesResult :
    (oneStrict (framed frameDC27)).sessions[0]? = some (framed frameDC27) ∧ (framed frameDC27).nibCnt = 13#4 ∧
      (∀ i : Fin 13, i.val < 4 → (framed frameDC27).buf[i] = 0xF#4) ∧
      ((oneStrict (framed frameDC27)).params.strictBcd = true →
        ∀ i : Fin 13, 5 ≤ i.val → i.val ≤ 10 → ((framed frameDC27).buf[i]).toNat ≤ 9) := by decide

/-- DC4. -/
theorem witness_NegativeZeroKeepsItsSign :
    ∃ x : Session, (one x).sessions[0]? = some x ∧ x.nibCnt = 13#4 ∧ (∀ i : Fin 13, i.val < 4 → x.buf[i] = 0xF#4) ∧
      (∀ i : Fin 13, 5 ≤ i.val → i.val ≤ 10 → x.buf[i] = 0#4) ∧ (x.buf[4]).getLsbD 3 = true :=
  ⟨framed #v[0xF, 0xF, 0xF, 0xF, 8, 0, 0, 0, 0, 0, 0, 0, 0], rfl, by decide, by decide, by decide, by decide⟩

theorem witness_FailedDecodeFindsNoResult :
    ∃ t r, busy.Inv ∧ busy.sessions[1]? = some Session.zeroed ∧ exec (.decode 1 0#8) busy = .next t ∧
      Answers busy t r ∧ r.status ≠ .success :=
  ⟨_, ⟨.errInvalidState, 0#32⟩, busy_inv, rfl, rfl, rfl, by decide⟩

/-- The clause for decimal digits. -/
theorem witness_MagnitudeIsDigitSum :
    ∀ i : Fin 13, 5 ≤ i.val → i.val ≤ 10 → (frameW1[i]).toNat ≤ 9 := by decide

theorem witness_StoredFloatIsNearestEven :
    1666665 ≤ 1666665 ∧ 15 ≤ 15 ∧ f32Exponent 0x7F7FFFFF#32 < 255 := by decide

theorem witness_StoredFloatIsNormalOrZero : 1 ≤ 1666665 ∧ 15 ≤ 15 ∧ 1 ≠ 0 := by decide

theorem witness_ExactBinary32Operands :
    1666665 ≤ 1666665 ∧ 10 ≤ 10 ∧ 11 ≤ 11 ∧ 11 ≤ 15 ∧ f32Exponent 0x7F7FFFFF#32 < 255 := by decide

theorem witness_MeasurementRoundTrip :
    busy.sessions[(1 : Fin 16).val]? = some Session.zeroed ∧ 999999 ≤ 999999 ∧ (6#4).toNat ≤ 6 := by decide

theorem witness_ReadsAnswerResultRegisters : (one decodedDC27).sessions[0]? = some decodedDC27 := rfl

theorem witness_RduAnswersInfoWord : (one decodedDC27).sessions[0]? = some decodedDC27 := rfl

theorem witness_ReadsWithoutResultAnswerZero :
    busy.Inv ∧ busy.sessions[1]? = some Session.zeroed ∧ Session.zeroed.res.valid = false ∧
      Instr.rdu 1 0#8 ∈ [Instr.rdf 1 0#8, .rdi 1 0#8, .rdu 1 0#8] := ⟨busy_inv, rfl, rfl, by decide⟩

end Sys2Proof.Tests
end

/-!
What one command does to a session and to the machine: the inversion lemmas from which the claims about state and
invariant follow (spec/10_state.md; spec/20_memory.md R59).
-/

namespace Sys2Proof.Machine

open Sys2Proof.Config

/-! ### The four kinds of effect -/

/-- A legal command resets its session, gives it a bit, decodes its frame or reads its result. -/
theorem sessionEffect_cases {strict : Bool} {i : Instr} {f : Session → Session × Response}
    (h : sessionEffect strict i = some f) :
    (i.mnemonic = "RESET" ∧ f = Session.doReset) ∨
    (i.mnemonic = "BIT" ∧ ∃ b, f = fun x => x.acceptBit b) ∨
    (i.mnemonic = "DECODE" ∧ f = Session.decodeFrame strict) ∨
    (∃ read, f = Session.readResult read) := by
  cases i with
  | reset _ _ => exact .inl ⟨rfl, (Option.some.inj h).symm⟩
  | bit _ d => exact .inr (.inl ⟨rfl, bitOperand d, (Option.some.inj h).symm⟩)
  | decode _ _ => exact .inr (.inr (.inl ⟨rfl, (Option.some.inj h).symm⟩))
  | rdf _ _ | rdi _ _ | rdu _ _ => exact .inr (.inr (.inr ⟨_, (Option.some.inj h).symm⟩))
  | _ => cases h

@[simp] theorem doReset_status (x : Session) : x.doReset.2.status = .success := rfl

/-! ### BIT -/

/-- BIT writes no result register (10_state.md R29). -/
@[simp] theorem acceptBit_res (x : Session) (b : Bool) : (x.acceptBit b).1.res = x.res := by
  obtain ⟨_, h⟩ | ⟨_, _, h⟩ | ⟨_, _, h⟩ := acceptBit_cases x b <;> simp [h]

/-- A full buffer refuses the bit and keeps the session (10_state.md R26). -/
theorem acceptBit_of_full {x : Session} (hx : 13 ≤ x.nibCnt.toNat) (b : Bool) :
    x.acceptBit b = (x, errorResponse .errProtocolViolation) := by
  obtain ⟨_, h⟩ | ⟨hlt, _⟩ | ⟨hlt, _⟩ := acceptBit_cases x b
  · exact h
  · omega
  · omega

/-- One more stored nibble does not overflow the count. -/
theorem nibCnt_succ_toNat {n : BitVec 4} (h : n.toNat < 13) : (n + 1#4).toNat = n.toNat + 1 := by
  rw [BitVec.toNat_add, BitVec.toNat_ofNat]; omega

theorem acceptBit_errProtocolViolation_iff (x : Session) (b : Bool) :
    (x.acceptBit b).2.status = .errProtocolViolation ↔ 13 ≤ x.nibCnt.toNat := by
  obtain ⟨hge, h⟩ | ⟨hlt, _, h⟩ | ⟨hlt, _, h⟩ := acceptBit_cases x b
  · simp [h, hge, errorResponse]
  · simp [h, hlt]
  · have hne : (if x.nibCnt + 1#4 = 13#4 then Status.frameComplete else .ongoing) ≠ .errProtocolViolation := by
      split <;> simp
    simp [h, hlt, hne]

theorem acceptBit_frameComplete_iff (x : Session) (b : Bool) :
    (x.acceptBit b).2.status = .frameComplete ↔ x.nibCnt ≠ 13#4 ∧ (x.acceptBit b).1.nibCnt = 13#4 := by
  obtain ⟨hge, h⟩ | ⟨hlt, _, h⟩ | ⟨hlt, _, h⟩ := acceptBit_cases x b
  · simp [h, errorResponse]
  · simp [h]
  · have hne : x.nibCnt ≠ 13#4 := by rintro he; rw [he] at hlt; exact absurd hlt (by decide)
    simp [h, hne]

/-! ### DECODE -/

/-- DECODE writes neither session state nor buffer (10_state.md R22, 41_decoder.md R142). -/
theorem decodeFrame_session (strict : Bool) (x : Session) :
    (x.decodeFrame strict).1 = { x with res := (x.decodeFrame strict).1.res } := by
  obtain ⟨_, h⟩ | ⟨_, _, h⟩ | ⟨_, _, _, h⟩ | ⟨_, _, _, h⟩ := decodeFrame_cases strict x <;> simp [h]

/-- A DECODE that does not succeed changes nothing (41_decoder.md R141). -/
theorem decodeFrame_of_error {strict : Bool} {x : Session} (hs : (x.decodeFrame strict).2.status ≠ .success) :
    (x.decodeFrame strict).1 = x := by
  obtain ⟨_, h⟩ | ⟨_, _, h⟩ | ⟨_, _, _, h⟩ | ⟨_, _, _, h⟩ := decodeFrame_cases strict x
  · rw [h]
  · rw [h]
  · rw [h]
  · rw [h] at hs; exact absurd rfl hs

theorem decodeFrame_errInvalidState_iff (strict : Bool) (x : Session) :
    (x.decodeFrame strict).2.status = .errInvalidState ↔ x.nibCnt ≠ 13#4 := by
  obtain ⟨h13, h⟩ | ⟨h13, _, h⟩ | ⟨h13, _, _, h⟩ | ⟨h13, _, _, h⟩ := decodeFrame_cases strict x <;>
    simp [h, h13, errorResponse]

/-! ### What a command does to the machine -/

/-- A command whose effect runs on an existing session leaves there what the effect gives and answers its response. -/
theorem exec_effect {i : Instr} {s t : State} {f : Session → Session × Response} {x : Session}
    (hf : sessionEffect s.params.strictBcd i = some f) (hx : s.sessions[i.sid]? = some x) (he : exec i s = .next t) :
    t.sessions[i.sid]? = some (f x).1 ∧ Answers s t (f x).2 := by
  rw [exec_shape, hf, ← sid_eq_sessionIndex] at he
  have ht := (onSession_some hx f).symm.trans he
  cases ht
  exact ⟨State.setSession_get hx _, rfl⟩

/-- Every command gives one response and touches its own session and the responses in flight alone. -/
theorem exec_frame {i : Instr} {s t : State} (he : exec i s = .next t) :
    (∃ r, Answers s t r) ∧ ChangesOnlySession i.sid s t := by
  rw [sid_eq_sessionIndex]
  obtain ⟨_, h⟩ | ⟨_, _, _, h⟩ | ⟨_, _, _, _, h⟩ := exec_cases i s
  · cases h.symm.trans he; exact ⟨⟨_, rfl⟩, changesOnlySession_respond s _ _⟩
  · cases h.symm.trans he; exact ⟨⟨_, rfl⟩, changesOnlySession_respond s _ _⟩
  · cases h.symm.trans he; exact ⟨⟨_, rfl⟩, changesOnlySession_set s _ _ _⟩

/-- An illegal command changes no session (30_encoding.md R74). -/
theorem exec_sessions_of_illegal {i : Instr} {s t : State} (hf : sessionEffect s.params.strictBcd i = none)
    (he : exec i s = .next t) : t.sessions = s.sessions := by
  rw [exec_shape, hf] at he
  cases he
  rfl

/-- After a command a session is what it was, or it is the command's own session and holds what the effect gives. -/
theorem exec_session_cases {i : Instr} {s t : State} {k : Nat} {x y : Session} (he : exec i s = .next t)
    (hx : s.sessions[k]? = some x) (hy : t.sessions[k]? = some y) :
    y = x ∨ ∃ f, sessionEffect s.params.strictBcd i = some f ∧ i.sid = k ∧ y = (f x).1 ∧ Answers s t (f x).2 := by
  by_cases hk : k = i.sid
  · subst hk
    cases hf : sessionEffect s.params.strictBcd i with
    | none =>
      rw [exec_sessions_of_illegal hf he, hx] at hy
      exact .inl (Option.some.inj hy).symm
    | some f =>
      obtain ⟨hnew, hans⟩ := exec_effect hf hx he
      rw [hnew] at hy
      exact .inr ⟨f, rfl, rfl, (Option.some.inj hy).symm, hans⟩
  · rw [(exec_frame he).2.others k hk, hx] at hy
    exact .inl (Option.some.inj hy).symm

end Sys2Proof.Machine

/-!
The invariant of the machine: every command keeps the invariants of its session, and the clock work keeps the order of
the responses in flight (spec/10_state.md R39; spec/41_decoder.md R140; spec/70_reset_and_hazards.md R261).
-/

namespace Sys2Proof.Machine

open Sys2Proof.Config

/-! ### Every effect keeps the invariants of a session -/

/-- What the machine's invariant asks of a session. -/
def Session.Ok (strict : Bool) (x : Session) : Prop := x.Inv ∧ x.ResultFrameAccepted strict

theorem zeroed_ok (strict : Bool) : Session.zeroed.Ok strict :=
  ⟨⟨by decide, by decide, by decide, by decide, by decide, by decide⟩, by intro h; cases h⟩

/-- A session whose buffer is not full holds no result. -/
theorem Session.Inv.no_result {x : Session} (h : x.Inv) (hn : x.nibCnt.toNat < 13) : x.res.valid ≠ true := by
  intro hv
  rw [(h.result hv).1] at hn
  exact absurd hn (by decide)

/-- A placed bit leaves the higher positions of `acc` clear. -/
theorem placeBit_keeps_high_clear {acc : Nibble} {n : BitVec 2} (b : Bool) (hn : n ≠ 3#2)
    (h : ∀ k : Fin 4, n.toNat ≤ k → acc.getLsbD k = false) (k : Fin 4) (hk : (n + 1#2).toNat ≤ k) :
    (placeBit acc n b).getLsbD k = false := by
  have hlt : n.toNat < k := by bv_omega
  rw [placeBit_getLsbD, if_neg (by omega)]
  exact h k hlt.le

/-- A nibble stored at the count leaves the entries above it clear. -/
theorem bufWrite_keeps_tail_clear {buf : Vector Nibble frameNibbles} {n : BitVec 4} (v : Nibble) (hn : n.toNat < 13)
    (h : ∀ i : Fin frameNibbles, n.toNat ≤ i → buf[i] = 0#4) (i : Fin frameNibbles) (hi : (n + 1#4).toNat ≤ i) :
    (bufWrite buf n v)[i] = 0#4 := by
  rw [nibCnt_succ_toNat hn] at hi
  exact (bufWrite_other buf n v i i.isLt (by omega)).trans (h i (by omega))

theorem acceptBit_keeps_inv {x : Session} (h : x.Inv) (b : Bool) : (x.acceptBit b).1.Inv := by
  obtain ⟨_, e⟩ | ⟨hlt, h3, e⟩ | ⟨hlt, _, e⟩ := acceptBit_cases x b
  · rw [e]; exact h
  · have hne : x.nibCnt ≠ 13#4 := by bv_omega
    rw [e]
    exact
      { count := h.count
        accHighClear := placeBit_keeps_high_clear b h3 h.accHighClear
        fullIdle := fun h13 => absurd h13 hne
        tailClear := h.tailClear
        noResult := h.noResult
        result := h.result }
  · rw [e]
    exact
      { count := by simp only [nibCnt_succ_toNat hlt]; omega
        accHighClear := fun _ _ => BitVec.getLsbD_zero
        fullIdle := fun _ => ⟨rfl, rfl⟩
        tailClear := bufWrite_keeps_tail_clear _ hlt h.tailClear
        noResult := h.noResult
        result := fun hv => absurd hv (h.no_result hlt) }

theorem acceptBit_keeps_ok {strict : Bool} {x : Session} (h : x.Ok strict) (b : Bool) :
    (x.acceptBit b).1.Ok strict := by
  refine ⟨acceptBit_keeps_inv h.1 b, fun hv => ?_⟩
  have hv : x.res.valid = true := by simpa using hv
  have hfull : 13 ≤ x.nibCnt.toNat := not_lt.1 fun hlt => h.1.no_result hlt hv
  rw [acceptBit_of_full hfull b]
  exact h.2 hv

/-- DECODE writes a result only for a full buffer whose frame passes its checks. -/
theorem decodeFrame_keeps_ok {strict : Bool} {x : Session} (h : x.Ok strict) : (x.decodeFrame strict).1.Ok strict := by
  obtain ⟨_, e⟩ | ⟨_, _, e⟩ | ⟨_, _, _, e⟩ | ⟨h13, hhead, hdigits, e⟩ := decodeFrame_cases strict x
  · rw [e]; exact h
  · rw [e]; exact h
  · rw [e]; exact h
  · rw [e]
    obtain ⟨hinv, _⟩ := h
    refine ⟨?_, fun _ => ⟨hhead, hdigits⟩⟩
    exact
      { count := hinv.count
        accHighClear := hinv.accHighClear
        fullIdle := hinv.fullIdle
        tailClear := hinv.tailClear
        noResult := fun hv => nomatch hv
        result := fun _ => ⟨h13, rfl⟩ }

theorem sessionEffect_keeps_ok {strict : Bool} {i : Instr} {f : Session → Session × Response} {x : Session}
    (hf : sessionEffect strict i = some f) (h : x.Ok strict) : (f x).1.Ok strict := by
  obtain ⟨_, rfl⟩ | ⟨_, b, rfl⟩ | ⟨_, rfl⟩ | ⟨read, rfl⟩ := sessionEffect_cases hf
  · exact zeroed_ok strict
  · exact acceptBit_keeps_ok h b
  · exact decodeFrame_keeps_ok h
  · exact h

/-- After a command every session still meets its invariants. -/
theorem exec_keeps_sessions_ok {i : Instr} {s t : State} (he : exec i s = .next t)
    (h : ∀ x ∈ s.sessions, x.Ok s.params.strictBcd) : ∀ y ∈ t.sessions, y.Ok t.params.strictBcd := by
  obtain ⟨_, hframe⟩ := exec_frame he
  intro y hy
  rw [hframe.params]
  obtain ⟨k, hk, hky⟩ := List.getElem_of_mem hy
  have hks : k < s.sessions.length := lt_of_lt_of_eq hk hframe.nsess
  have hx : s.sessions[k]? = some s.sessions[k] := List.getElem?_eq_getElem hks
  have hok := h _ (List.getElem_mem hks)
  obtain rfl | ⟨f, hf, _, rfl, _⟩ := exec_session_cases he hx (List.getElem?_eq_some_iff.2 ⟨hk, hky⟩)
  · exact hok
  · exact sessionEffect_keeps_ok hf hok

/-! ### The clock edge -/

/-- Responses in flight that fall due one by one, the last within `n` edges. -/
structure DueWithin (n : Nat) (q : List Pending) : Prop where
  rise : (q.map Pending.wait).Pairwise (· < ·)
  due : ∀ p ∈ q, 1 ≤ p.wait ∧ p.wait ≤ n

/-- The response of a command accepted now is due after all those in flight (70_reset_and_hazards.md R261). -/
theorem DueWithin.append {n : Nat} {q : List Pending} (rise : (q.map Pending.wait).Pairwise (· < ·))
    (due : ∀ p ∈ q, 1 ≤ p.wait ∧ p.wait < n) (hn : 1 ≤ n) (r : Response) : DueWithin n (q ++ [⟨n, r⟩]) where
  rise := by
    rw [List.map_append, List.pairwise_append]
    refine ⟨rise, List.pairwise_singleton _ _, ?_⟩
    simp only [List.mem_map, List.map_cons, List.map_nil, List.mem_singleton]
    rintro _ ⟨p, hp, rfl⟩ _ rfl
    exact (due p hp).2
  due p hp := by
    rcases List.mem_append.1 hp with hp | hp
    · exact ⟨(due p hp).1, (due p hp).2.le⟩
    · rw [List.mem_singleton.1 hp]; exact ⟨hn, le_rfl⟩

/-- One edge nearer, responses that all had two edges or more to wait keep their order. -/
theorem tick_keeps_due {n : Nat} {q : List Pending} (h : DueWithin n q) (h2 : ∀ p ∈ q, 2 ≤ p.wait) :
    ((q.map Pending.tick).map Pending.wait).Pairwise (· < ·) ∧
      ∀ p ∈ q.map Pending.tick, 1 ≤ p.wait ∧ p.wait < n := by
  constructor
  · have hrise := List.pairwise_map.1 h.rise
    refine List.pairwise_map.2 (List.pairwise_map.2 (hrise.imp_of_mem fun {a b} ha _ hab => ?_))
    have hwait := h2 a ha
    simp only [Pending.tick_wait]; omega
  · intro p hp
    obtain ⟨p, hq, rfl⟩ := List.mem_map.1 hp
    have hwait := h2 p hq
    have hbound := (h.due p hq).2
    simp only [Pending.tick_wait]; omega

/-- After the clock work the responses still in flight fall due one by one, each a cycle earlier than before. -/
theorem clock_keeps_due {n : Nat} {s : State} (h : DueWithin n s.inFlight) :
    (s.clock.inFlight.map Pending.wait).Pairwise (· < ·) ∧ ∀ p ∈ s.clock.inFlight, 1 ≤ p.wait ∧ p.wait < n := by
  cases hq : s.inFlight with
  | nil => simp [State.clock_of_nil hq, hq]
  | cons p q =>
    rw [hq] at h
    have hrise := h.rise
    rw [List.map_cons, List.pairwise_cons] at hrise
    obtain ⟨hfirst, hrest⟩ := hrise
    have hlater : ∀ p' ∈ q, p.wait < p'.wait := fun p' hp' => hfirst _ (List.mem_map_of_mem hp')
    by_cases hp : p.wait ≤ 1
    · rw [State.clock_of_due hq hp]
      have h1 := (h.due p List.mem_cons_self).1
      exact tick_keeps_due ⟨hrest, fun p' hp' => h.due p' (List.mem_cons_of_mem p hp')⟩
        fun p' hp' => by have := hlater p' hp'; omega
    · rw [State.clock_of_waiting hq (by omega)]
      refine tick_keeps_due h fun p' hp' => ?_
      rcases List.mem_cons.1 hp' with rfl | hp'
      · omega
      · have := hlater p' hp'; omega

/-- The invariant between a command's effect and the clock work of its edge: the new response has all of `LAT` edges to
wait, this edge among them. -/
structure State.InvBeforeClock (s : State) : Prop where
  sessionCount : 1 ≤ s.nsess ∧ s.nsess ≤ maxSessions
  latPositive : 1 ≤ s.params.lat
  wasReset : s.rstSeen = true
  sessionsOk : ∀ x ∈ s.sessions, x.Ok s.params.strictBcd
  waits : DueWithin s.params.lat s.inFlight

/-- The invariant does not look at the port. -/
theorem State.Inv.with_port {s : State} (h : s.Inv) (port : List PortCycle) : { s with port := port }.Inv :=
  ⟨h.sessionCount, h.latPositive, h.wasReset, h.sessionsOk, h.waitsRise, h.waitsDue⟩

/-- An edge that accepts no command begins its clock work in a state that meets the invariant. -/
theorem State.Inv.before_clock {s : State} (h : s.Inv) : s.InvBeforeClock where
  sessionCount := h.sessionCount
  latPositive := h.latPositive
  wasReset := h.wasReset
  sessionsOk := h.sessionsOk
  waits := ⟨h.waitsRise, fun p hp => ⟨(h.waitsDue p hp).1, (h.waitsDue p hp).2.le⟩⟩

theorem exec_invBeforeClock {i : Instr} {s t : State} (h : s.Inv) (he : exec i s = .next t) : t.InvBeforeClock := by
  obtain ⟨⟨r, hans⟩, hframe⟩ := exec_frame he
  exact
    { sessionCount := hframe.nsess.symm ▸ h.sessionCount
      latPositive := hframe.params.symm ▸ h.latPositive
      wasReset := hframe.rstSeen.trans h.wasReset
      sessionsOk := exec_keeps_sessions_ok he h.sessionsOk
      waits := by
        rw [hframe.params, hans]
        exact DueWithin.append h.waitsRise h.waitsDue h.latPositive r }

theorem State.InvBeforeClock.clock_inv {s : State} (h : s.InvBeforeClock) : s.clock.Inv := by
  obtain ⟨hrise, hdue⟩ := clock_keeps_due h.waits
  exact
    { sessionCount := by simpa using h.sessionCount
      latPositive := by simpa using h.latPositive
      wasReset := by simpa using h.wasReset
      sessionsOk := by simpa [Session.Ok] using h.sessionsOk
      waitsRise := hrise
      waitsDue := by simpa using hdue }

theorem State.Inv.hardwareReset_inv {s : State} (h : s.Inv) : s.hardwareReset.Inv where
  sessionCount := by simpa using h.sessionCount
  latPositive := h.latPositive
  wasReset := rfl
  sessionsOk x hx := by
    obtain ⟨_, _, rfl⟩ := List.mem_map.1 hx
    exact zeroed_ok _
  waitsRise := List.Pairwise.nil
  waitsDue _ hp := nomatch hp

/-- Settles O15: a step is a hardware reset, or a command's effect or none, followed by the clock work. -/
theorem stepKeepsInvariant : Obligations.StepKeepsInvariant := by
  intro s t h hstep
  obtain ⟨_, rfl⟩ | ⟨_, rest, _, _, rfl⟩ | ⟨_, rest, _, _, _, rfl⟩ | ⟨_, rest, u, _, _, _, _, he, rfl⟩ :=
    step_cases hstep
  · exact h.before_clock.clock_inv
  · exact (h.with_port rest).hardwareReset_inv
  · exact (h.with_port rest).before_clock.clock_inv
  · exact (exec_invBeforeClock (h.with_port rest) he).clock_inv

/-- A block of any permitted size, right after reset, meets the invariant. -/
theorem resetOf_inv {n : Nat} {p : Params} (hn : 1 ≤ n ∧ n ≤ maxSessions) (hlat : 1 ≤ p.lat) :
    (State.resetOf n p).Inv where
  sessionCount := by simpa using hn
  latPositive := hlat
  wasReset := rfl
  sessionsOk x hx := by
    rw [List.eq_of_mem_replicate hx]
    exact zeroed_ok _
  waitsRise := List.Pairwise.nil
  waitsDue _ hp := nomatch hp

/-- Settles O14: every session is zeroed and no response is in flight. -/
theorem invariantHoldsAtReset : Obligations.InvariantHoldsAtReset :=
  ⟨fun _ _ h1 h16 hlat => resetOf_inv ⟨h1, h16⟩ hlat, resetOf_inv (by decide) (by decide)⟩

end Sys2Proof.Machine

/-!
Which commands write the registers of a session, and what their statuses say of the nibble count (spec/10_state.md R22,
R26, R29, R40).
-/

namespace Sys2Proof.Machine

open Sys2Proof.Config

/-- Settles O29: BIT and the reads leave the result registers alone, and a DECODE that fails does. -/
theorem onlyDecodeAndResetWriteResults : Obligations.OnlyDecodeAndResetWriteResults := by
  intro i s t k x y r he hr hx hy hne
  obtain rfl | ⟨f, hf, hsid, rfl, hans⟩ := exec_session_cases he hx hy
  · exact absurd rfl hne
  obtain rfl := hr.unique hans
  obtain ⟨hm, rfl⟩ | ⟨_, b, rfl⟩ | ⟨hm, rfl⟩ | ⟨read, rfl⟩ := sessionEffect_cases hf
  · exact ⟨hsid, doReset_status x, .inr hm⟩
  · exact absurd (acceptBit_res x b) hne
  · have hsuccess : (x.decodeFrame s.params.strictBcd).2.status = .success :=
      by_contra fun herr => hne (by rw [decodeFrame_of_error herr])
    exact ⟨hsid, hsuccess, .inl hm⟩
  · exact absurd rfl hne

/-- Settles O30: DECODE and the reads leave session state and buffer alone, and a BIT on a full buffer does. -/
theorem onlyBitAndResetWriteSessionState : Obligations.OnlyBitAndResetWriteSessionState := by
  intro i s t k x y he hx hy hne
  obtain rfl | ⟨f, hf, hsid, rfl, _⟩ := exec_session_cases he hx hy
  · exact absurd rfl hne
  obtain ⟨hm, rfl⟩ | ⟨hm, b, rfl⟩ | ⟨_, rfl⟩ | ⟨read, rfl⟩ := sessionEffect_cases hf
  · exact ⟨hsid, .inr hm⟩
  · have hroom : x.nibCnt.toNat < 13 :=
      not_le.1 fun hfull => hne (by simp only [acceptBit_of_full hfull b])
    exact ⟨hsid, .inl ⟨hm, hroom⟩⟩
  · exact absurd (by rw [decodeFrame_session]) hne
  · exact absurd rfl hne

/-- Settles O37, from the statuses of BIT and DECODE on one session. -/
theorem statusesRevealTheNibbleCount : Obligations.StatusesRevealTheNibbleCount := by
  intro s t sid data x y r hx hy hr
  constructor
  · intro he
    obtain ⟨hnew, hans⟩ := exec_effect (i := .bit sid data) rfl hx he
    obtain rfl := hr.unique hans
    obtain rfl := Option.some.inj (hy.symm.trans hnew)
    exact ⟨acceptBit_frameComplete_iff x _, acceptBit_errProtocolViolation_iff x _⟩
  · intro he
    obtain ⟨_, hans⟩ := exec_effect (i := .decode sid data) rfl hx he
    obtain rfl := hr.unique hans
    exact decodeFrame_errInvalidState_iff _ x

end Sys2Proof.Machine

/-!
Sessions do not interfere: what a command answers and leaves in its session is a function of that session alone, so a
session cannot tell whether other sessions get commands too (spec/20_memory.md R59).
-/

namespace Sys2Proof.Machine

open Sys2Proof.Config

/-! ### One command -/

/-- What a command leaves in its session and answers, from what that session holds (`none`: it does not exist). -/
def sessionAnswer (strict : Bool) (i : Instr) (o : Option Session) : Option Session × Response :=
  match sessionEffect strict i, o with
  | none, _ => (o, errorResponse .errIllegalCommand)
  | some _, none => (none, errorResponse .errInvalidSession)
  | some f, some x => (some (f x).1, (f x).2)

/-- Every command completes. -/
theorem exec_completes (i : Instr) (s : State) : ∃ t, exec i s = .next t := by
  obtain ⟨_, h⟩ | ⟨_, _, _, h⟩ | ⟨_, _, _, _, h⟩ := exec_cases i s <;> exact ⟨_, h⟩

/-- A command's session and response after it are those of `sessionAnswer`. -/
theorem exec_sessionAnswer {i : Instr} {s t : State} (he : exec i s = .next t) :
    t.sessions[i.sid]? = (sessionAnswer s.params.strictBcd i s.sessions[i.sid]?).1 ∧
      Answers s t (sessionAnswer s.params.strictBcd i s.sessions[i.sid]?).2 := by
  rw [sid_eq_sessionIndex]
  obtain ⟨hf, h⟩ | ⟨f, hf, hx, h⟩ | ⟨f, x, hf, hx, h⟩ := exec_cases i s
  · cases h.symm.trans he
    simp [sessionAnswer, hf, Answers]
  · cases h.symm.trans he
    simp [sessionAnswer, hf, hx, Answers]
  · cases h.symm.trans he
    simp only [sessionAnswer, hf, hx]
    exact ⟨State.setSession_get hx _, rfl⟩

/-- Settles O27: both sides are what `sessionAnswer` gives from equal arguments. -/
theorem commandsDependOnTheirSessionOnly : Obligations.CommandsDependOnTheirSessionOnly := by
  intro i s s' t t' r r' hparams hsess he he' hr hr'
  obtain ⟨hnew, hans⟩ := exec_sessionAnswer he
  obtain ⟨hnew', hans'⟩ := exec_sessionAnswer he'
  rw [hparams, hsess] at hnew hans
  exact ⟨(hr.unique hans).trans (hans'.unique hr'), hnew.trans hnew'.symm⟩

/-! ### A list of commands -/

/-- All commands of `is` run from `s` and those that name session `k` run from `s'` complete, answer the latter alike and
in order, and leave the same session `k`. Two start states, since the runs drift apart in the other sessions. -/
def RunsAgree (k : Nat) (is : List Instr) (s s' : State) : Prop :=
  ∃ t u rs, execAll is s = .next t ∧ execAll (is.filter fun i => i.sid == k) s' = .next u ∧
    rs.length = is.length ∧ t.inFlight = s.inFlight ++ rs.map (fun r => ⟨s.params.lat, r⟩) ∧
    u.inFlight = s'.inFlight ++ ((is.zip rs).filter fun p => p.1.sid == k).map (fun p => ⟨s'.params.lat, p.2⟩) ∧
    t.sessions[k]? = u.sessions[k]?

theorem execAll_cons {i : Instr} {is : List Instr} {s t : State} (he : exec i s = .next t) :
    execAll (i :: is) s = execAll is t := by
  simp only [execAll, he]

/-- A command of session `k` itself runs on both sides, with the same response. -/
theorem RunsAgree.cons_own {k : Nat} {i : Instr} {is : List Instr} {s s' v v' : State} {r : Response} (hi : i.sid = k)
    (he : exec i s = .next v) (he' : exec i s' = .next v') (hr : Answers s v r) (hr' : Answers s' v' r)
    (h : RunsAgree k is v v') : RunsAgree k (i :: is) s s' := by
  obtain ⟨t, u, rs, ht, hu, hlen, htf, huf, hk⟩ := h
  have hp : v.params = s.params := (exec_frame he).2.params
  have hp' : v'.params = s'.params := (exec_frame he').2.params
  refine ⟨t, u, r :: rs, (execAll_cons he).trans ht, ?_, by simp [hlen], ?_, ?_, hk⟩
  · rw [List.filter_cons_of_pos (by simpa using hi), execAll_cons he', hu]
  · rw [htf, hr, hp]; simp
  · rw [huf, hr', hp']; simp [hi]

/-- A command of another session runs on the left only. -/
theorem RunsAgree.cons_other {k : Nat} {i : Instr} {is : List Instr} {s s' v : State} {r : Response} (hi : i.sid ≠ k)
    (he : exec i s = .next v) (hr : Answers s v r) (h : RunsAgree k is v s') : RunsAgree k (i :: is) s s' := by
  obtain ⟨t, u, rs, ht, hu, hlen, htf, huf, hk⟩ := h
  have hp : v.params = s.params := (exec_frame he).2.params
  refine ⟨t, u, r :: rs, (execAll_cons he).trans ht, ?_, by simp [hlen], ?_, ?_, hk⟩
  · rw [List.filter_cons_of_neg (by simpa using hi), hu]
  · rw [htf, hr, hp]; simp
  · rw [huf]; simp [hi]

/-- Runs from states that agree in the parameters and in session `k` agree for that session. -/
theorem runsAgree (k : Nat) (is : List Instr) {s s' : State} (hp : s.params = s'.params)
    (hk : s.sessions[k]? = s'.sessions[k]?) : RunsAgree k is s s' := by
  induction is generalizing s s' with
  | nil => exact ⟨s, s', [], rfl, rfl, rfl, by simp, by simp, hk⟩
  | cons i is ih =>
    obtain ⟨v, he⟩ := exec_completes i s
    obtain ⟨⟨r, hr⟩, hframe⟩ := exec_frame he
    by_cases hi : i.sid = k
    · subst hi
      obtain ⟨v', he'⟩ := exec_completes i s'
      obtain ⟨⟨r', hr'⟩, hframe'⟩ := exec_frame he'
      obtain ⟨rfl, hsess⟩ := commandsDependOnTheirSessionOnly i s s' v v' r r' hp hk he he' hr hr'
      have hpv : v.params = v'.params := hframe.params.trans (hp.trans hframe'.params.symm)
      exact .cons_own rfl he he' hr hr' (ih hpv hsess)
    · have hkv : v.sessions[k]? = s'.sessions[k]? := (hframe.others k (Ne.symm hi)).trans hk
      exact .cons_other hi he hr (ih (hframe.params.trans hp) hkv)

/-- Settles O28: the two runs start from the same state. -/
theorem sessionSeesOnlyItsOwnCommands : Obligations.SessionSeesOnlyItsOwnCommands :=
  fun is _ k => runsAgree k is rfl rfl

end Sys2Proof.Machine

/-!
A command and its word say the same: decoding and encoding are inverse, a word's opcode picks its row of the opcode
table, and the assembler's lines have the words of the table (spec/30_encoding.md R70 to R75, R80 to R82).
-/

namespace Sys2Proof.Machine

open Sys2Proof.Config

/-! ### Decoding and encoding -/

/-- Settles O2: decoding reads the three fields back, and they determine the command. -/
theorem decodeEncodeGivesCommandBack : Obligations.DecodeEncodeGivesCommandBack := by
  intro i hi
  obtain ⟨hop, hsid, hdata⟩ := Laws.EncodedFields.of_fields i
  calc decode (encode i) = ofFields i.opcode i.sid i.data := by rw [decode, hop, hsid hi, hdata]
    _ = i := ofFields_of i

/-- Settles O3: a decoded word's fields are those of the word. -/
theorem encodeDecodeGivesWordBack : Obligations.EncodeDecodeGivesWordBack := by
  intro w
  have hsid : (decode w).sid < 16 := by rw [decode_sid]; exact sidField_lt w
  refine ⟨hsid, ?_⟩
  calc encode (decode w) = opField w ++ w.extractLsb' 8 4 ++ dataField w := by
        rw [encode, decode_opcode, decode_sid, decode_data, sidField, BitVec.ofNat_toNat, BitVec.setWidth_eq]
    _ = w := word_of_fields w

/-! ### The opcode table -/

/-- The mnemonic of a command depends on its opcode alone (30_encoding.md R72). -/
theorem mnemonic_eq_of_opcode (i : Instr) : i.mnemonic = (ofFields i.opcode 0 0#8).mnemonic := by
  cases i <;> rfl

/-- The row of the opcode table for one value of `OP`. -/
def rowOfOpcode (op : Nibble) : OpcodeRow := ⟨(ofFields op 0 0#8).mnemonic, op ++ 0#12, 0xF000#16⟩

theorem rowOfOpcode_mem (op : Nibble) : rowOfOpcode op ∈ opcodeTable := by
  revert op
  decide

theorem eq_rowOfOpcode_of_mem : ∀ r ∈ opcodeTable, r = rowOfOpcode (opField r.pattern) := by
  decide

theorem rowOfOpcode_matches_iff (op : Nibble) (w : CmdWord) :
    (rowOfOpcode op).matches w = true ↔ op = opField w := by
  simp only [OpcodeRow.matches, rowOfOpcode, and_opMask, beq_iff_eq]
  exact eq_comm.trans (BitVec.append_left_inj _)

/-- Settles O4: the rows are those of the sixteen opcodes, and a word matches the row of its own. -/
theorem opcodeTableRowsPartitionWords : Obligations.OpcodeTableRowsPartitionWords := by
  intro w
  refine ⟨rowOfOpcode (opField w), rowOfOpcode_mem _, (rowOfOpcode_matches_iff _ w).2 rfl, ?_, ?_⟩
  · rw [mnemonic_eq_of_opcode, decode_opcode]
    rfl
  · intro r hr hm
    rw [eq_rowOfOpcode_of_mem r hr] at hm ⊢
    rw [(rowOfOpcode_matches_iff _ w).1 hm]

/-! ### The assembler -/

/-- A command word as the spec's table writes it: its three fields, each shifted to its place. -/
theorem fields_eq_or (op : Nibble) (s : Fin 16) (data : BitVec 8) :
    (op ++ BitVec.ofNat 4 s ++ data : CmdWord) = op ++ 0#12 ||| BitVec.ofNat 16 s <<< 8 ||| data.setWidth 16 := by
  apply BitVec.eq_of_getLsbD_eq
  intro k hk
  have hs : 4 ≤ k - 8 → (s : Nat).testBit (k - 8) = false := fun h =>
    Nat.testBit_lt_two_pow (s.isLt.trans_le (Nat.pow_le_pow_right (n := 2) (by decide) h))
  have hdata : 8 ≤ k → data.getLsbD k = false := BitVec.getLsbD_of_ge data k
  simp only [BitVec.getLsbD_append, BitVec.getLsbD_or, BitVec.getLsbD_shiftLeft, BitVec.getLsbD_ofNat,
    BitVec.getLsbD_setWidth]
  by_cases h8 : k < 8
  · simp [h8, show k < 12 by omega, hk]
  · by_cases h12 : k < 12
    · simp [h8, h12, hdata (by omega), show k - 8 < 4 by omega, show k - 8 < 16 by omega, hk]
    · simp [h8, h12, hs (by omega), hdata (by omega), show ¬k - 8 < 4 by omega, show k - 8 - 4 = k - 12 by omega]

/-- The word of a BIT command (30_encoding.md R80). -/
theorem encode_bit (s : Fin 16) (data : BitVec 8) :
    encode (.bit s data) = 0x2000#16 ||| BitVec.ofNat 16 s <<< 8 ||| data.setWidth 16 :=
  fields_eq_or 0x2#4 s data

/-- The word of a command whose DATA is 0. -/
theorem fields_eq_or_of_data_zero (op : Nibble) (s : Fin 16) :
    (op ++ BitVec.ofNat 4 s ++ 0#8 : CmdWord) = op ++ 0#12 ||| BitVec.ofNat 16 s <<< 8 :=
  (fields_eq_or op s 0#8).trans BitVec.or_zero

/-- Settles O5: a command's word is its fields, and `.word` stands for the word it decodes from. -/
theorem assemblyLineWords : Obligations.AssemblyLineWords := by
  intro s b w
  exact ⟨congrArg ([·]) (fields_eq_or_of_data_zero 0x1#4 s), congrArg ([·]) (encode_bit s b),
    congrArg ([·]) (fields_eq_or_of_data_zero 0x3#4 s), congrArg ([·]) (fields_eq_or_of_data_zero 0x4#4 s),
    congrArg ([·]) (fields_eq_or_of_data_zero 0x5#4 s), congrArg ([·]) (fields_eq_or_of_data_zero 0x6#4 s),
    congrArg ([·]) (encodeDecodeGivesWordBack w).2⟩

/-- The word of one bit of a nibble (30_encoding.md R81). -/
theorem encode_bitCommand (s : Fin 16) (v : Nibble) (k : Nat) :
    encode (bitCommand s v k) =
      0x2000#16 ||| BitVec.ofNat 16 s <<< 8 ||| (BitVec.ofBool (v.getLsbD k)).setWidth 16 := by
  rw [bitCommand, encode_bit, BitVec.setWidth_setWidth (by decide)]

theorem nib_words (s : Fin 16) (v : Nibble) :
    (AsmLine.nib s v).words = [0, 1, 2, 3].map fun k =>
      0x2000#16 ||| BitVec.ofNat 16 s <<< 8 ||| (BitVec.ofBool (v.getLsbD k)).setWidth 16 := by
  simp only [AsmLine.words, AsmLine.commands, nibCommands, encode_bitCommand, List.map_cons, List.map_nil]

theorem frame_words (s : Fin 16) (ns : Vector Nibble frameNibbles) :
    (AsmLine.frame s ns).words = ns.toList.flatMap (fun n => (AsmLine.nib s n).words) :=
  List.map_flatMap

/-- Settles O6: each pseudo-instruction is BIT commands, whose words are those of `encode_bitCommand`. -/
theorem pseudoInstructionWords : Obligations.PseudoInstructionWords := by
  intro s v ns negative ds p u
  refine ⟨nib_words s v, frame_words s ns, ?_, rfl⟩
  simp [frame_words, nib_words, List.length_flatMap, frameNibbles]

/-- Settles O1, by evaluating each word. -/
theorem writtenWordsAreTheirCommands : Obligations.WrittenWordsAreTheirCommands := by
  unfold Obligations.WrittenWordsAreTheirCommands
  decide

end Sys2Proof.Machine

/-!
What a command may answer: the statuses and data of 30_encoding.md R77 and R78, the errors of an illegal opcode (R74)
and of an absent session (R73), and the info word of RDU (R79).
-/

namespace Sys2Proof.Machine

open Sys2Proof.Config

/-- Settles O21, status by status. -/
theorem statusCodes : Obligations.StatusCodes :=
  ⟨rfl, rfl, rfl, rfl, rfl, rfl, rfl, rfl, fun st => by cases st <;> decide⟩

/-- Settles O18, from what every command is known to do. -/
theorem everyCommandGivesOneResponse : Obligations.EveryCommandGivesOneResponse := by
  intro i s
  obtain ⟨t, he⟩ := exec_completes i s
  obtain ⟨⟨r, hr⟩, hframe⟩ := exec_frame he
  exact ⟨t, r, he, hr, hframe⟩

/-! ### The statuses and data of a response -/

/-- The status is one listed for the command, and data other than 0 is a successful read's (30_encoding.md R77, R78). -/
def ResponseListed (i : Instr) (r : Response) : Prop :=
  r.status ∈ allowedStatuses i ∧ (r.data ≠ 0x00000000#32 → isRead i = true ∧ r.status = .success)

/-- A response without data needs no more than a listed status. -/
theorem responseListed_of_status {i : Instr} {st : Status} (h : st ∈ allowedStatuses i) :
    ResponseListed i ⟨st, 0x00000000#32⟩ :=
  ⟨h, fun hd => absurd rfl hd⟩

theorem errIllegalCommand_mem_allowedStatuses_iff (strict : Bool) (i : Instr) :
    .errIllegalCommand ∈ allowedStatuses i ↔ sessionEffect strict i = none := by
  cases i <;> simp [allowedStatuses, sessionEffect]

/-- Every legal command may find its session absent (60_exceptions.md R205). -/
theorem errInvalidSession_mem_allowedStatuses {strict : Bool} {i : Instr} {f : Session → Session × Response}
    (hf : sessionEffect strict i = some f) : .errInvalidSession ∈ allowedStatuses i := by
  cases i <;> simp [allowedStatuses, sessionEffect] at hf ⊢

theorem acceptBit_responseListed (sid : Nat) (data : BitVec 8) (x : Session) (b : Bool) :
    ResponseListed (.bit sid data) (x.acceptBit b).2 := by
  obtain ⟨_, h⟩ | ⟨_, _, h⟩ | ⟨_, _, h⟩ := acceptBit_cases x b <;> rw [h]
  · exact responseListed_of_status (by simp [allowedStatuses])
  · exact responseListed_of_status (by simp [allowedStatuses])
  · refine responseListed_of_status ?_
    split <;> simp [allowedStatuses]

theorem decodeFrame_responseListed (sid : Nat) (data : BitVec 8) (strict : Bool) (x : Session) :
    ResponseListed (.decode sid data) (x.decodeFrame strict).2 := by
  obtain ⟨_, h⟩ | ⟨_, _, h⟩ | ⟨_, _, _, h⟩ | ⟨_, _, _, h⟩ := decodeFrame_cases strict x <;> rw [h]
  all_goals exact responseListed_of_status (by simp [allowedStatuses])

theorem sessionEffect_responseListed {strict : Bool} {i : Instr} {f : Session → Session × Response}
    (hf : sessionEffect strict i = some f) (x : Session) : ResponseListed i (f x).2 := by
  cases i with
  | reset _ _ => cases hf; exact responseListed_of_status (by simp [allowedStatuses])
  | bit sid data => cases hf; exact acceptBit_responseListed sid data x _
  | decode sid data => cases hf; exact decodeFrame_responseListed sid data strict x
  | rdf _ _ | rdi _ _ | rdu _ _ => cases hf; exact ⟨List.mem_cons_self, fun _ => ⟨rfl, rfl⟩⟩
  | _ => cases hf

/-- Settles O20: the two errors of every command, and what its effect answers. -/
theorem responsesAreThoseListed : Obligations.ResponsesAreThoseListed := by
  intro i s t r he hr
  change ResponseListed i r
  obtain ⟨hf, h⟩ | ⟨f, hf, _, h⟩ | ⟨f, x, hf, _, h⟩ := exec_cases i s
  · cases h.symm.trans he
    rw [hr.unique rfl]
    exact responseListed_of_status ((errIllegalCommand_mem_allowedStatuses_iff _ i).2 hf)
  · cases h.symm.trans he
    rw [hr.unique rfl]
    exact responseListed_of_status (errInvalidSession_mem_allowedStatuses hf)
  · cases h.symm.trans he
    rw [hr.unique rfl]
    exact sessionEffect_responseListed hf x

/-! ### Illegal opcodes and absent sessions -/

/-- An illegal command answers its error and changes nothing; no legal command answers so (30_encoding.md R74). -/
theorem exec_eq_raise_illegal_iff (i : Instr) (s : State) :
    exec i s = .next (s.raise .errIllegalCommand) ↔ sessionEffect s.params.strictBcd i = none := by
  constructor
  · intro he
    obtain ⟨hmem, _⟩ := responsesAreThoseListed i s _ (errorResponse .errIllegalCommand) he rfl
    exact (errIllegalCommand_mem_allowedStatuses_iff _ i).1 hmem
  · intro hf
    rw [exec_shape, hf]

/-- The opcodes with no effect of their own (30_encoding.md R74). -/
theorem sessionEffect_eq_none_iff (strict : Bool) (i : Instr) :
    sessionEffect strict i = none ↔ i.opcode.toNat = 0 ∨ 7 ≤ i.opcode.toNat := by
  cases i <;> simp [sessionEffect, Instr.opcode]

/-- Settles O23: a word's opcode decides whether its command has an effect. -/
theorem illegalExactlyForUnassignedOpcodes : Obligations.IllegalExactlyForUnassignedOpcodes := by
  intro w s
  rw [← opField_eq_shift, ← decode_opcode, ← sessionEffect_eq_none_iff s.params.strictBcd]
  exact (exec_eq_raise_illegal_iff (decode w) s).symm

/-- Settles O22: the ten commands have no effect. -/
theorem illegalOpcodesAnswerIllegalCommand : Obligations.IllegalOpcodesAnswerIllegalCommand := by
  intro s sid data i hi
  refine (exec_eq_raise_illegal_iff i s).2 ?_
  simp only [List.mem_cons, List.not_mem_nil, or_false] at hi
  obtain rfl | rfl | rfl | rfl | rfl | rfl | rfl | rfl | rfl | rfl := hi <;> rfl

/-- Settles O24: each of the six runs on the session that is not there. -/
theorem absentSessionAnswersInvalidSession : Obligations.AbsentSessionAnswersInvalidSession := by
  intro s sid data hsid i hi
  have habsent : s.sessions[sid]? = none := List.getElem?_eq_none hsid
  simp only [List.mem_cons, List.not_mem_nil, or_false] at hi
  obtain rfl | rfl | rfl | rfl | rfl | rfl := hi <;> exact onSession_none habsent _

/-! ### RDU -/

/-- A read answers its word and changes nothing (42_result_access.md R173). -/
theorem onSession_readResult {s : State} {sid : Nat} {x : Session} (h : s.sessions[sid]? = some x)
    (read : ResultRegs → DataWord) :
    s.onSession sid (Session.readResult read) = .next (s.respond ⟨.success, read x.res⟩) := by
  rw [onSession_some h]
  simp only [Session.readResult, State.setSession_self h]

/-- Bit `k` of the info word, field by field from bit 0 up (30_encoding.md R79). -/
theorem infoWord_getLsbD (r : ResultRegs) {k : Nat} (hk : k < 32) :
    (infoWord r).getLsbD k =
      if k = 0 then r.unit.bit.getLsbD 0 else if k < 4 then false
      else if k < 8 then r.rawUnit.getLsbD (k - 4) else if k < 12 then r.dp.getLsbD (k - 8)
      else if k = 12 then r.sign else if k = 13 then r.oor else if k = 15 then r.valid else false := by
  simp only [infoWord, BitVec.getLsbD_setWidth, BitVec.getLsbD_append, hk]
  interval_cases k <;> simp

theorem MeasUnit.bit_eq_true_iff (u : MeasUnit) : u.bit.getLsbD 0 = true ↔ u = .inch := by
  cases u <;> decide

theorem infoWord_rawUnit (r : ResultRegs) : (infoWord r).extractLsb' 4 4 = r.rawUnit := by
  apply BitVec.eq_of_getLsbD_eq
  intro k hk
  rw [BitVec.getLsbD_extractLsb', infoWord_getLsbD r (by omega)]
  simp [hk, show ¬4 + k < 4 by omega, show 4 + k < 8 by omega]

theorem infoWord_dp (r : ResultRegs) : (infoWord r).extractLsb' 8 4 = r.dp := by
  apply BitVec.eq_of_getLsbD_eq
  intro k hk
  rw [BitVec.getLsbD_extractLsb', infoWord_getLsbD r (by omega)]
  simp [hk, show ¬8 + k < 4 by omega, show ¬8 + k < 8 by omega, show 8 + k < 12 by omega]

/-- Bits 3:1 of the info word read 0. -/
theorem infoWord_low_zeros (r : ResultRegs) : (infoWord r).extractLsb' 1 3 = 0#3 := by
  apply BitVec.eq_of_getLsbD_eq
  intro k hk
  rw [BitVec.getLsbD_extractLsb', infoWord_getLsbD r (by omega)]
  simp [show 1 + k < 4 by omega]

/-- Bits 31:16 of the info word read 0. -/
theorem infoWord_high_zeros (r : ResultRegs) : (infoWord r).extractLsb' 16 16 = 0#16 := by
  apply BitVec.eq_of_getLsbD_eq
  intro k hk
  simp [infoWord]

/-- Settles O51: RDU reads the info word, whose bits are those of `infoWord_getLsbD`. -/
theorem rduAnswersInfoWord : Obligations.RduAnswersInfoWord := by
  intro s sid data x hx
  refine ⟨infoWord x.res, onSession_readResult hx infoWord, ?_, infoWord_low_zeros _, infoWord_rawUnit _,
    infoWord_dp _, infoWord_getLsbD _ (by decide), infoWord_getLsbD _ (by decide), infoWord_getLsbD _ (by decide),
    infoWord_getLsbD _ (by decide), infoWord_high_zeros _⟩
  rw [infoWord_getLsbD _ (by decide)]
  exact x.res.unit.bit_eq_true_iff

end Sys2Proof.Machine

/-!
RESET and BIT: what each leaves in its session and answers, the ignored bits of every command, and the whole frame that
52 BITs send (spec/40_accumulator.md; spec/30_encoding.md R73).
-/

namespace Sys2Proof.Machine

open Sys2Proof.Config

/-! ### RESET -/

theorem exec_reset {s : State} {sid : Nat} {x : Session} (hx : s.sessions[sid]? = some x) (data : BitVec 8) :
    exec (.reset sid data) s = .next ((s.setSession sid Session.zeroed).respond ⟨.success, 0x00000000#32⟩) :=
  onSession_some hx _

/-- Settles O31: RESET writes the zeroed session. -/
theorem resetZeroesItsSession : Obligations.ResetZeroesItsSession := by
  intro s sid data x hx
  exact ⟨_, Session.zeroed, exec_reset hx data, State.setSession_get hx _, rfl, rfl, rfl,
    fun i => Session.zeroed_buf i i.isLt, rfl, rfl, rfl, rfl, rfl, rfl, rfl, rfl, rfl, changesOnlySession_set _ _ _ _⟩

/-- RESET of an existing session leaves it zeroed. -/
theorem exec_reset_session {s t : State} {sid : Nat} {data : BitVec 8} (hsid : sid < s.nsess)
    (he : exec (.reset sid data) s = .next t) : t.sessions[sid]? = some Session.zeroed :=
  (exec_effect (i := .reset sid data) rfl (List.getElem?_eq_getElem hsid) he).1

/-- Settles O32: the second RESET writes the zeroed session over itself. -/
theorem resetForgetsHistory : Obligations.ResetForgetsHistory := by
  intro s s' t t' u sid data data' data'' hsid hsid' he he' hu
  have ht := exec_reset_session hsid he
  refine ⟨ht, exec_reset_session hsid' he', ?_⟩
  rw [exec_reset ht, State.setSession_self ht] at hu
  cases hu
  rfl

/-! ### BIT -/

theorem exec_bit {s : State} {sid : Nat} {x : Session} (hx : s.sessions[sid]? = some x) (data : BitVec 8) :
    exec (.bit sid data) s = .next
      ((s.setSession sid (x.acceptBit (bitOperand data)).1).respond (x.acceptBit (bitOperand data)).2) :=
  onSession_some hx _

/-- Settles O35: a refused bit writes the session back as it was. -/
theorem bitOnFullBufferRefusedByStatus : Obligations.BitOnFullBufferRefusedByStatus := by
  intro s sid data x hx hfull
  rw [exec_bit hx, acceptBit_of_full hfull, State.setSession_self hx]
  rfl

/-- A bit that is not the fourth of its nibble is placed in `acc` (40_accumulator.md R110). -/
theorem acceptBit_of_not_fourth {x : Session} (hn : x.nibCnt.toNat < 13) (hk : x.bitCnt.toNat < 3) (b : Bool) :
    x.acceptBit b = ({ x with acc := placeBit x.acc x.bitCnt b, bitCnt := x.bitCnt + 1#2 }, ⟨.ongoing, 0#32⟩) := by
  obtain ⟨hge, _⟩ | ⟨_, _, h⟩ | ⟨_, h3, _⟩ := acceptBit_cases x b
  · omega
  · exact h
  · rw [h3] at hk; exact absurd hk (by decide)

/-- The fourth bit of a nibble stores it (40_accumulator.md R114). -/
theorem acceptBit_of_fourth {x : Session} (hn : x.nibCnt.toNat < 13) (hk : x.bitCnt.toNat = 3) (b : Bool) :
    x.acceptBit b =
      ({ x with buf := bufWrite x.buf x.nibCnt (placeBit x.acc x.bitCnt b), acc := 0#4, bitCnt := 0#2,
                nibCnt := x.nibCnt + 1#4 },
        ⟨if x.nibCnt.toNat = 12 then .frameComplete else .ongoing, 0#32⟩) := by
  obtain ⟨hge, _⟩ | ⟨_, h3, _⟩ | ⟨_, _, h⟩ := acceptBit_cases x b
  · omega
  · exact absurd (BitVec.eq_of_toNat_eq hk) h3
  · have hlast : x.nibCnt + 1#4 = 13#4 ↔ x.nibCnt.toNat = 12 := by bv_omega
    simpa only [hlast] using h

/-- The entry a write selects holds what was written. -/
theorem bufWrite_at (buf : Vector Nibble frameNibbles) (n : BitVec 4) (v : Nibble) {i : Fin frameNibbles}
    (hi : i.val = n.toNat) : (bufWrite buf n v)[i] = v := by
  obtain ⟨_, h⟩ := i
  cases hi
  exact bufWrite_same buf n v h

/-- One more placed bit of an unfinished nibble does not overflow the count. -/
theorem bitCnt_succ_toNat {k : BitVec 2} (h : k.toNat < 3) : (k + 1#2).toNat = k.toNat + 1 := by
  rw [BitVec.toNat_add, BitVec.toNat_ofNat]; omega

/-- Settles O33: the bit is placed in `acc`, and no more. -/
theorem bitPlacesOneBit : Obligations.BitPlacesOneBit := by
  intro s sid data x hx hn hk
  have he := exec_bit hx data
  rw [acceptBit_of_not_fourth hn hk] at he
  exact ⟨_, _, he, State.setSession_get hx _, bitCnt_succ_toNat hk, placeBit_getLsbD _ _ _, rfl, rfl, rfl, rfl,
    changesOnlySession_set _ _ _ _⟩

/-- Settles O34: the nibble with its fourth bit placed is written at the count. -/
theorem fourthBitStoresNibble : Obligations.FourthBitStoresNibble := by
  intro s sid data x hx hn hk
  have he := exec_bit hx data
  rw [acceptBit_of_fourth hn hk] at he
  refine ⟨_, _, he, State.setSession_get hx _, rfl, rfl, nibCnt_succ_toNat hn, ?_,
    fun i hi => bufWrite_other _ _ _ i i.isLt hi, rfl, rfl, changesOnlySession_set _ _ _ _⟩
  intro i hi j
  rw [← hk]
  exact (congrArg (·.getLsbD j) (bufWrite_at _ _ _ hi)).trans (placeBit_getLsbD _ _ _ j)

/-! ### Ignored bits -/

/-- Clearing DATA bits of a word keeps the bits above DATA. -/
theorem getLsbD_clearData_high (w : CmdWord) (m : BitVec 8) {k : Nat} (hk : 8 ≤ k) :
    (w &&& ~~~(m.setWidth 16)).getLsbD k = w.getLsbD k := by
  by_cases h16 : k < 16
  · simp [h16, BitVec.getLsbD_of_ge m k hk]
  · simp [h16, BitVec.getLsbD_of_ge w k (by omega)]

theorem opField_clearData (w : CmdWord) (m : BitVec 8) : opField (w &&& ~~~(m.setWidth 16)) = opField w := by
  apply BitVec.eq_of_getLsbD_eq
  intro k _
  simp only [opField, BitVec.getLsbD_extractLsb', getLsbD_clearData_high w m (show 8 ≤ 12 + k by omega)]

theorem sidField_clearData (w : CmdWord) (m : BitVec 8) : sidField (w &&& ~~~(m.setWidth 16)) = sidField w := by
  unfold sidField
  congr 1
  apply BitVec.eq_of_getLsbD_eq
  intro k _
  simp only [BitVec.getLsbD_extractLsb', getLsbD_clearData_high w m (show 8 ≤ 8 + k by omega)]

theorem dataField_clearData (w : CmdWord) (m : BitVec 8) :
    dataField (w &&& ~~~(m.setWidth 16)) = dataField w &&& ~~~m := by
  apply BitVec.eq_of_getLsbD_eq
  intro k hk
  simp [dataField, hk, show k < 16 by omega]

/-- BIT looks at `DATA[0]` alone (40_accumulator.md R113). -/
theorem bitOperand_clearIgnored (data : BitVec 8) : bitOperand (data &&& ~~~0xFE#8) = bitOperand data := by
  simp [bitOperand]

/-- A command with its ignored bits cleared does what the command does. -/
theorem exec_clearIgnored (i : Instr) (s : State) :
    exec (ofFields i.opcode i.sid (i.data &&& ~~~i.ignoredData)) s = exec i s := by
  cases i with
  | bit sid data =>
    exact congrArg (fun b => s.onSession sid fun x => x.acceptBit b) (bitOperand_clearIgnored data)
  | _ => rfl

/-- Settles O7: clearing the ignored bits of a word clears those of its command. -/
theorem ignoredBitsHaveNoEffect : Obligations.IgnoredBitsHaveNoEffect := by
  intro w s
  have hclear : decode (w &&& ~~~((decode w).ignoredData.setWidth 16)) =
      ofFields (decode w).opcode (decode w).sid ((decode w).data &&& ~~~(decode w).ignoredData) := by
    rw [decode_opcode, decode_sid, decode_data, ← opField_clearData w, ← sidField_clearData w, ← dataField_clearData w]
    rfl
  rw [hclear, exec_clearIgnored]

/-! ### A frame, bit by bit -/

/-- A session that has accepted the first `n` bits of the sequence `b` since its reset and nothing else: `n / 4` nibbles
stored and `n % 4` bits of the next one placed, least significant bit first (40_accumulator.md R117), and no result. -/
structure Session.HasAccepted (b : Nat → Bool) (n : Nat) (x : Session) : Prop where
  inv : x.Inv
  nibCnt : x.nibCnt.toNat = n / 4
  bitCnt : x.bitCnt.toNat = n % 4
  acc : ∀ k : Fin 4, k.val < n % 4 → x.acc.getLsbD k = b (4 * (n / 4) + k)
  buf : ∀ i : Fin frameNibbles, i.val < n / 4 → ∀ k : Fin 4, (x.buf[i]).getLsbD k = b (4 * i + k)
  res : x.res = ResultRegs.zeroed

/-- The status of the bit at index `n` of a frame (40_accumulator.md R115). -/
def frameBitStatus (n : Nat) : Status := if n = 51 then .frameComplete else .ongoing

theorem zeroed_hasAccepted (b : Nat → Bool) : Session.zeroed.HasAccepted b 0 where
  inv := (zeroed_ok true).1
  nibCnt := rfl
  bitCnt := rfl
  acc _ hk := absurd hk (Nat.not_lt_zero _)
  buf _ hi := absurd hi (Nat.not_lt_zero _)
  res := rfl

/-- The next bit joins the nibble's earlier bits at its own position. -/
theorem Session.HasAccepted.placed_bit {b : Nat → Bool} {n : Nat} {x : Session} (h : x.HasAccepted b n) (k : Fin 4)
    (hk : k.val ≤ n % 4) : (placeBit x.acc x.bitCnt (b n)).getLsbD k = b (4 * (n / 4) + k) := by
  rw [placeBit_getLsbD, h.bitCnt]
  by_cases hlast : k.val = n % 4
  · rw [if_pos hlast, hlast, Nat.div_add_mod]
  · rw [if_neg hlast, h.acc k (by omega)]

/-- With the fourth bit's nibble stored, one more nibble of the buffer holds bits of the sequence. -/
theorem Session.HasAccepted.stored_nibble {b : Nat → Bool} {n : Nat} {x : Session} (h : x.HasAccepted b n)
    (h3 : n % 4 = 3) (i : Fin frameNibbles) (hi : i.val ≤ n / 4) (k : Fin 4) :
    ((bufWrite x.buf x.nibCnt (placeBit x.acc x.bitCnt (b n)))[i]).getLsbD k = b (4 * i + k) := by
  by_cases hnew : i.val = n / 4
  · rw [bufWrite_at _ _ _ (hnew.trans h.nibCnt.symm), h.placed_bit k (by omega), hnew]
  · have hother : i.val ≠ x.nibCnt.toNat := by rwa [h.nibCnt]
    rw [Fin.getElem_fin, bufWrite_other _ _ _ i i.isLt hother]
    exact h.buf i (by omega) k

theorem Session.HasAccepted.next_of_not_fourth {b : Nat → Bool} {n : Nat} {x : Session} (h : x.HasAccepted b n)
    (hn : n < 52) (h3 : n % 4 < 3) :
    (x.acceptBit (b n)).1.HasAccepted b (n + 1) ∧ (x.acceptBit (b n)).2 = ⟨frameBitStatus n, 0x00000000#32⟩ := by
  have hinv := acceptBit_keeps_inv h.inv (b n)
  have hbit : x.bitCnt.toNat < 3 := h.bitCnt.trans_lt h3
  rw [acceptBit_of_not_fourth (by rw [h.nibCnt]; omega) hbit] at hinv ⊢
  have hdiv : (n + 1) / 4 = n / 4 := by omega
  have hmod : (n + 1) % 4 = n % 4 + 1 := by omega
  constructor
  · exact
      { inv := hinv
        nibCnt := h.nibCnt.trans hdiv.symm
        bitCnt := by rw [hmod, ← h.bitCnt]; exact bitCnt_succ_toNat hbit
        acc := fun k hk => by rw [hdiv]; exact h.placed_bit k (by omega)
        buf := hdiv.symm ▸ h.buf
        res := h.res }
  · rw [frameBitStatus, if_neg (by omega)]

theorem Session.HasAccepted.next_of_fourth {b : Nat → Bool} {n : Nat} {x : Session} (h : x.HasAccepted b n)
    (hn : n < 52) (h3 : n % 4 = 3) :
    (x.acceptBit (b n)).1.HasAccepted b (n + 1) ∧ (x.acceptBit (b n)).2 = ⟨frameBitStatus n, 0x00000000#32⟩ := by
  have hinv := acceptBit_keeps_inv h.inv (b n)
  have hnib : x.nibCnt.toNat < 13 := by rw [h.nibCnt]; omega
  rw [acceptBit_of_fourth hnib (h.bitCnt.trans h3)] at hinv ⊢
  have hdiv : (n + 1) / 4 = n / 4 + 1 := by omega
  have hmod : (n + 1) % 4 = 0 := by omega
  constructor
  · exact
      { inv := hinv
        nibCnt := by rw [hdiv, ← h.nibCnt]; exact nibCnt_succ_toNat hnib
        bitCnt := hmod.symm
        acc := fun k hk => absurd hk (by omega)
        buf := fun i hi => h.stored_nibble h3 i (by omega)
        res := h.res }
  · have hlast : x.nibCnt.toNat = 12 ↔ n = 51 := by rw [h.nibCnt]; omega
    simp only [hlast, frameBitStatus]

/-- Each bit of a frame is accepted, and the last completes the frame. -/
theorem Session.HasAccepted.next {b : Nat → Bool} {n : Nat} {x : Session} (h : x.HasAccepted b n) (hn : n < 52) :
    (x.acceptBit (b n)).1.HasAccepted b (n + 1) ∧ (x.acceptBit (b n)).2 = ⟨frameBitStatus n, 0x00000000#32⟩ := by
  by_cases h3 : n % 4 = 3
  · exact h.next_of_fourth hn h3
  · exact h.next_of_not_fourth hn (by omega)

theorem ChangesOnlySession.refl (sid : Nat) (s : State) : ChangesOnlySession sid s s :=
  ⟨fun _ _ => rfl, rfl, rfl, rfl, rfl, rfl⟩

theorem ChangesOnlySession.trans {sid : Nat} {s t u : State} (h : ChangesOnlySession sid s t)
    (h' : ChangesOnlySession sid t u) : ChangesOnlySession sid s u where
  others k hk := (h'.others k hk).trans (h.others k hk)
  nsess := h'.nsess.trans h.nsess
  params := h'.params.trans h.params
  rstSeen := h'.rstSeen.trans h.rstSeen
  port := h'.port.trans h.port
  rsp := h'.rsp.trans h.rsp

/-- BITs of the DATA words `d n`, `d (n + 1)` and so on, `m` of them, to a session that has accepted those before. -/
theorem execAll_bits_of_hasAccepted (d : Nat → BitVec 8) {sid n m : Nat} {s : State} {x : Session} (hm : n + m ≤ 52)
    (hx : s.sessions[sid]? = some x) (h : x.HasAccepted (fun j => bitOperand (d j)) n) :
    ∃ t y, execAll (((List.range' n m).map d).map (.bit sid)) s = .next t ∧ t.sessions[sid]? = some y ∧
      y.HasAccepted (fun j => bitOperand (d j)) (n + m) ∧
      t.inFlight = s.inFlight ++ (List.range' n m).map (fun j => ⟨s.params.lat, ⟨frameBitStatus j, 0x00000000#32⟩⟩) ∧
      ChangesOnlySession sid s t := by
  induction m generalizing n s x with
  | zero => exact ⟨s, x, rfl, hx, h, by simp, .refl sid s⟩
  | succ m ih =>
    obtain ⟨hnext, hresp⟩ := h.next (by omega)
    obtain ⟨v, he⟩ := exec_completes (.bit sid (d n)) s
    obtain ⟨hv, hans⟩ := exec_effect (i := .bit sid (d n)) rfl hx he
    obtain ⟨_, hframe⟩ := exec_frame he
    rw [hresp] at hans
    obtain ⟨t, y, ht, hy, hyacc, hfl, hframe'⟩ := ih (by omega) hv hnext
    refine ⟨t, y, (execAll_cons he).trans ht, hy, ?_, ?_, hframe.trans hframe'⟩
    · rwa [Nat.add_right_comm, Nat.add_assoc] at hyacc
    · rw [hfl, hans, hframe.params, List.range'_succ]
      simp

/-! ### A full buffer -/

/-- Only a RESET of the session frees a full buffer (10_state.md R26). -/
theorem exec_keeps_full {i : Instr} {s t : State} {sid : Nat} {x : Session} (he : exec i s = .next t)
    (hi : i.sid = sid → i.mnemonic ≠ "RESET") (hx : s.sessions[sid]? = some x) (hfull : 13 ≤ x.nibCnt.toNat) :
    ∃ y, t.sessions[sid]? = some y ∧ 13 ≤ y.nibCnt.toNat := by
  obtain ⟨hsid, _⟩ := List.getElem?_eq_some_iff.1 hx
  obtain ⟨y, hy⟩ : ∃ y, t.sessions[sid]? = some y :=
    ⟨_, List.getElem?_eq_getElem (hsid.trans_eq (exec_frame he).2.nsess.symm)⟩
  refine ⟨y, hy, ?_⟩
  by_cases hcount : y.nibCnt = x.nibCnt
  · rwa [hcount]
  · obtain ⟨hown, ⟨_, hlt⟩ | hreset⟩ := onlyBitAndResetWriteSessionState i s t sid x y he hx hy fun heq =>
      hcount (congrArg (fun p => p.2.2.1) heq)
    · omega
    · exact absurd hreset (hi hown)

theorem execAll_keeps_full {js : List Instr} {s : State} {sid : Nat} {x : Session}
    (hjs : ∀ j ∈ js, j.sid = sid → j.mnemonic ≠ "RESET") (hx : s.sessions[sid]? = some x)
    (hfull : 13 ≤ x.nibCnt.toNat) :
    ∃ u y, execAll js s = .next u ∧ u.params = s.params ∧ u.sessions[sid]? = some y ∧ 13 ≤ y.nibCnt.toNat := by
  induction js generalizing s x with
  | nil => exact ⟨s, x, rfl, rfl, hx, hfull⟩
  | cons j js ih =>
    obtain ⟨hj, hjs⟩ := List.forall_mem_cons.1 hjs
    obtain ⟨t, he⟩ := exec_completes j s
    obtain ⟨y, hy, hyfull⟩ := exec_keeps_full he hj hx hfull
    rw [execAll_cons he, ← (exec_frame he).2.params]
    exact ih hjs hy hyfull

/-! ### The whole frame -/

/-- A nibble is the sum of its bits' weights. -/
theorem nibble_toNat (v : Nibble) :
    v.toNat = (v.getLsbD 0).toNat + 2 * (v.getLsbD 1).toNat + 4 * (v.getLsbD 2).toNat + 8 * (v.getLsbD 3).toNat := by
  revert v
  decide

/-- The DATA words of a frame's BITs, as a sequence. -/
def frameData (b : Vector (BitVec 8) 52) (j : Nat) : BitVec 8 := b[j]?.getD 0#8

theorem frameData_of_lt (b : Vector (BitVec 8) 52) {j : Nat} (h : j < 52) : frameData b j = b[j] := by
  simp [frameData, h]

theorem toList_eq_map_frameData (b : Vector (BitVec 8) 52) : b.toList = (List.range' 0 52).map (frameData b) := by
  refine List.ext_getElem (by simp) fun j hj _ => ?_
  have h52 : j < 52 := by simpa using hj
  simp [frameData_of_lt b h52]

/-- The statuses of a frame's bits (40_accumulator.md R115). -/
theorem frameBitStatuses :
    (List.range' 0 52).map frameBitStatus = List.replicate 51 Status.ongoing ++ [Status.frameComplete] := by
  decide

/-- Settles O36: bit by bit the session goes from accepting none to a full buffer, which no command but RESET frees. -/
theorem fiftyTwoBitsFillTheBuffer : Obligations.FiftyTwoBitsFillTheBuffer := by
  intro s sid b hx
  obtain ⟨t, y, ht, hy, hacc, hfl, hframe⟩ :=
    execAll_bits_of_hasAccepted (frameData b) (m := 52) le_rfl hx (zeroed_hasAccepted _)
  have h13 : y.nibCnt = 13#4 := BitVec.eq_of_toNat_eq hacc.nibCnt
  obtain ⟨hidle, hclear⟩ := hacc.inv.fullIdle h13
  refine ⟨t, y, by rw [toList_eq_map_frameData]; exact ht, hy, ?_, h13, hidle, hclear, hacc.res, ?_, hframe, ?_⟩
  · intro i hi
    have hbit : ∀ (k : Nat) (hk : k < 4), (y.buf[i]).getLsbD k = (b[4 * i + k]).getLsbD 0 := fun k hk =>
      (hacc.buf ⟨i, hi⟩ hi ⟨k, hk⟩).trans (congrArg bitOperand (frameData_of_lt b _))
    rw [nibble_toNat, hbit 0 (by decide), hbit 1 (by decide), hbit 2 (by decide), hbit 3 (by decide)]
    rfl
  · rw [hfl, ← frameBitStatuses, List.map_map]
    rfl
  · intro js hjs
    obtain ⟨u, z, hu, hparams, hz, hfull⟩ := execAll_keeps_full hjs hy hacc.nibCnt.ge
    refine ⟨u, hu, fun data => ?_⟩
    rw [← hframe.params, ← hparams]
    exact bitOnFullBufferRefusedByStatus u sid data z hz hfull

end Sys2Proof.Machine

/-!
The rounded quotient DECODE stores: its significand and exponent, that no binary32 number is nearer, and which
operands are exact (spec/41_decoder.md R138, R143; spec/93_implementation_defined.md G1 to G4).
-/

namespace Sys2Proof.Machine

/-! ### Rounded division -/

/-- No multiple of the divisor is nearer to the dividend than the rounded quotient, and another is as near only when
the quotient is even. -/
theorem roundDivEven_nearest (n k : Nat) {d : Nat} (hd : 0 < d) :
    ((roundDivEven n d * d : Int) - n).natAbs ≤ ((k * d : Int) - n).natAbs ∧
      (((roundDivEven n d * d : Int) - n).natAbs = ((k * d : Int) - n).natAbs → k ≠ roundDivEven n d →
        roundDivEven n d % 2 = 0) := by
  obtain ⟨hhalf, hties⟩ := roundDivEven_spec n d hd
  set q := roundDivEven n d
  have far : k ≠ q → (k * d : Int) + d ≤ q * d ∨ (q * d : Int) + d ≤ k * d := fun hk => by
    rcases Nat.lt_or_gt_of_ne hk with h | h
    · exact .inl (by exact_mod_cast (Nat.succ_mul k d).symm.trans_le (Nat.mul_le_mul_right d h))
    · exact .inr (by exact_mod_cast (Nat.succ_mul q d).symm.trans_le (Nat.mul_le_mul_right d h))
  by_cases hk : k = q
  · rw [hk]; exact ⟨le_rfl, fun _ h => absurd rfl h⟩
  · have := far hk
    exact ⟨by omega, fun heq _ => hties (by omega)⟩

/-- A multiple of the divisor is divided exactly. -/
theorem roundDivEven_mul_of_dvd {n d : Nat} (hd : 0 < d) (h : d ∣ n) : roundDivEven n d * d = n := by
  obtain ⟨k, rfl⟩ := h
  simp [roundDivEven, hd, Nat.mul_comm]

theorem le_roundDivEven {a n d : Nat} (hd : 0 < d) (h : a * d ≤ n) : a ≤ roundDivEven n d := by
  have hdown : n / d ≤ roundDivEven n d := by
    unfold roundDivEven
    simp only
    split_ifs <;> omega
  exact ((Nat.le_div_iff_mul_le hd).2 h).trans hdown

theorem roundDivEven_le {b n d : Nat} (hd : 0 < d) (h : n < b * d) : roundDivEven n d ≤ b := by
  have hup : roundDivEven n d ≤ n / d + 1 := by
    unfold roundDivEven
    simp only
    split_ifs <;> omega
  exact hup.trans ((Nat.div_lt_iff_lt_mul hd).2 h)

/-! ### The fields of a pattern -/

theorem f32Exponent_ofNat {v : Nat} (h : v < 2 ^ 31) : f32Exponent (BitVec.ofNat 32 v) = v / 2 ^ 23 := by
  simp only [f32Exponent, BitVec.extractLsb'_toNat, BitVec.toNat_ofNat, Nat.shiftRight_eq_div_pow]
  omega

theorem f32Fraction_ofNat (v : Nat) : f32Fraction (BitVec.ofNat 32 v) = v % 2 ^ 23 := by
  simp only [f32Fraction, BitVec.extractLsb'_toNat, BitVec.toNat_ofNat, Nat.shiftRight_zero]
  omega

theorem f32Fraction_lt (f : BitVec 32) : f32Fraction f < 2 ^ 23 := (f.extractLsb' 0 23).isLt

/-- A significand of 24 bits added below the exponent `t` reads as `q · 2^t`, also where it carries into the
exponent. -/
theorem f32Scaled_of_significand {t q : Nat} (ht : t < 253) (hq : q ≤ 2 ^ 24) (hnormal : t = 0 ∨ 2 ^ 23 ≤ q) :
    f32Scaled (BitVec.ofNat 32 (t * 2 ^ 23 + q)) = q * 2 ^ t := by
  rw [f32Scaled, f32Exponent_ofNat (by omega), f32Fraction_ofNat]
  rcases Nat.lt_or_ge q (2 ^ 23) with h | h
  · obtain rfl : t = 0 := by omega
    rw [if_pos (by omega)]
    omega
  rcases hq.lt_or_eq with h24 | rfl
  · rw [show (t * 2 ^ 23 + q) / 2 ^ 23 = t + 1 by omega, show (t * 2 ^ 23 + q) % 2 ^ 23 = q - 2 ^ 23 by omega,
      if_neg (by omega), Nat.add_sub_cancel' h, Nat.add_sub_cancel]
  · rw [show (t * 2 ^ 23 + 2 ^ 24) / 2 ^ 23 = t + 2 by omega, show (t * 2 ^ 23 + 2 ^ 24) % 2 ^ 23 = 0 by omega,
      if_neg (by omega)]
    simp only [Nat.add_zero, Nat.add_succ_sub_one, pow_succ]
    omega

/-- A binary32 number is a multiple of the spacing `2^t`, or it lies below the binade that has this spacing. -/
theorem f32Scaled_dvd_or_lt (g : BitVec 32) (t : Nat) :
    2 ^ t ∣ f32Scaled g ∨ t ≠ 0 ∧ f32Scaled g < 2 ^ 23 * 2 ^ t := by
  have hf := f32Fraction_lt g
  rcases Nat.eq_zero_or_pos t with rfl | ht
  · exact .inl (one_dvd _)
  rw [f32Scaled]
  split
  · exact .inr ⟨ht.ne', hf.trans_le (Nat.le_mul_of_pos_right _ (Nat.two_pow_pos t))⟩
  · next hE =>
    rcases Nat.lt_or_ge (f32Exponent g - 1) t with h | h
    · refine .inr ⟨ht.ne', ?_⟩
      calc (2 ^ 23 + f32Fraction g) * 2 ^ (f32Exponent g - 1)
          < 2 ^ 24 * 2 ^ (f32Exponent g - 1) := Nat.mul_lt_mul_of_pos_right (by omega) (Nat.two_pow_pos _)
        _ = 2 ^ 23 * 2 ^ (f32Exponent g - 1 + 1) := by rw [pow_succ 2 (f32Exponent g - 1)]; omega
        _ ≤ 2 ^ 23 * 2 ^ t := Nat.mul_le_mul_left _ (Nat.pow_le_pow_right (by decide) h)
    · exact .inl (Dvd.dvd.mul_left (pow_dvd_pow 2 h) _)

/-! ### The significand and exponent of a rounded quotient -/

/-- The significand of `RNE32(num / den)`, in units of the spacing of its binade. -/
def significand (num den : Nat) : Nat := roundDivEven (num * 2 ^ 149) (den * 2 ^ binade num den)

/-- A quotient below `2^a` lies in a binade below that of `2^a`. -/
theorem binade_lt {m d a : Nat} (hd : 0 < d) (h : m < 2 ^ a * d) : binade m d < a + 126 := by
  rcases (binade_spec m d hd).1 with h0 | hle
  · omega
  · have hlt : d * 2 ^ (binade m d + 23) < d * 2 ^ (a + 149) :=
      calc d * 2 ^ (binade m d + 23) = 2 ^ 23 * (d * 2 ^ binade m d) := by rw [pow_add]; ac_rfl
        _ ≤ m * 2 ^ 149 := hle
        _ < 2 ^ a * d * 2 ^ 149 := Nat.mul_lt_mul_of_pos_right h (Nat.two_pow_pos _)
        _ = d * 2 ^ (a + 149) := by rw [pow_add 2 a]; ac_rfl
    have := (Nat.pow_lt_pow_iff_right (by decide)).1 (Nat.lt_of_mul_lt_mul_left hlt)
    omega

/-- A quotient of at least `2^(-125)` is no subnormal. -/
theorem binade_ne_zero {m d : Nat} (hm : m ≠ 0) (hd : 0 < d) (h : d ≤ 2 ^ 125) : binade m d ≠ 0 := by
  intro h0
  have hlt := (binade_spec m d hd).2
  rw [h0, pow_zero, Nat.mul_one] at hlt
  have hge : 2 ^ 24 * d ≤ m * 2 ^ 149 :=
    calc 2 ^ 24 * d ≤ 2 ^ 24 * 2 ^ 125 := Nat.mul_le_mul_left _ h
      _ = 1 * 2 ^ 149 := by norm_num
      _ ≤ m * 2 ^ 149 := Nat.mul_le_mul_right _ (Nat.pos_of_ne_zero hm)
  exact absurd hlt hge.not_gt

theorem significand_le {m d : Nat} (hd : 0 < d) : significand m d ≤ 2 ^ 24 :=
  roundDivEven_le (Nat.mul_pos hd (Nat.two_pow_pos _)) (binade_spec m d hd).2

theorem significand_normal {m d : Nat} (hd : 0 < d) : binade m d = 0 ∨ 2 ^ 23 ≤ significand m d :=
  (binade_spec m d hd).1.imp_right (le_roundDivEven (Nat.mul_pos hd (Nat.two_pow_pos _)))

/-- The pattern of a quotient that does not overflow. -/
theorem rne32_eq {m d : Nat} (hd : 0 < d) (h : m < 2 ^ 127 * d) :
    rne32 m d = BitVec.ofNat 32 (binade m d * 2 ^ 23 + significand m d) := by
  have ht := binade_lt hd h
  have hq := significand_le (m := m) hd
  have hfinite : binade m d * 2 ^ 23 + significand m d ≤ 0x7F800000 := by omega
  exact congrArg (BitVec.ofNat 32) (Nat.min_eq_left hfinite)

theorem f32Scaled_rne32 {m d : Nat} (hd : 0 < d) (h : m < 2 ^ 127 * d) :
    f32Scaled (rne32 m d) = significand m d * 2 ^ binade m d := by
  rw [rne32_eq hd h]
  exact f32Scaled_of_significand (binade_lt hd h) (significand_le hd) (significand_normal hd)

theorem f32Exponent_rne32 {m d : Nat} (hd : 0 < d) (h : m < 2 ^ 127 * d) :
    f32Exponent (rne32 m d) = (binade m d * 2 ^ 23 + significand m d) / 2 ^ 23 := by
  have ht := binade_lt hd h
  have hq := significand_le (m := m) hd
  rw [rne32_eq hd h, f32Exponent_ofNat (by omega)]

/-- A quotient that does not overflow is rounded to a finite number. -/
theorem f32Exponent_rne32_lt {m d : Nat} (hd : 0 < d) (h : m < 2 ^ 127 * d) : f32Exponent (rne32 m d) < 255 := by
  have ht := binade_lt hd h
  have hq := significand_le (m := m) hd
  rw [f32Exponent_rne32 hd h]
  omega

/-- Above the lowest binade the rounded quotient is no subnormal. -/
theorem f32Exponent_rne32_pos {m d : Nat} (hd : 0 < d) (h : m < 2 ^ 127 * d) (ht : binade m d ≠ 0) :
    1 ≤ f32Exponent (rne32 m d) := by
  rw [f32Exponent_rne32 hd h]
  omega

/-- The lowest bit of a rounded quotient is that of its significand. -/
theorem rne32_getLsbD_zero {m d : Nat} (hd : 0 < d) (h : m < 2 ^ 127 * d) :
    (rne32 m d).getLsbD 0 = decide (significand m d % 2 = 1) := by
  have heven : (binade m d * 2 ^ 23 + significand m d) % 2 = significand m d % 2 := by omega
  rw [rne32_eq hd h, BitVec.getLsbD_ofNat, Nat.testBit_zero, heven]
  exact Bool.true_and _

@[simp] theorem rne32_zero (d : Nat) : rne32 0 d = 0x00000000#32 := by
  simp [rne32, binade, roundDivEven]

/-! ### DECODE's range -/

/-- The reciprocal of a power of ten DECODE divides by is no subnormal. -/
theorem ten_pow_le_two_pow {dp : Nat} (h : dp ≤ 15) : 10 ^ dp ≤ 2 ^ 125 :=
  (Nat.pow_le_pow_right (by decide) h).trans (by norm_num : 10 ^ 15 ≤ 2 ^ 125)

/-- No magnitude of DECODE overflows binary32, whatever its decimal point. -/
theorem magnitude_lt_max {m d : Nat} (hm : m ≤ 1666665) (hd : 0 < d) : m < 2 ^ 127 * d :=
  calc m < 2 ^ 127 * 1 := hm.trans_lt (by norm_num)
    _ ≤ 2 ^ 127 * d := Nat.mul_le_mul_left _ hd

/-! ### Nearest, ties to even -/

/-- A quotient rounded to a multiple of `2^t` is as near as any number that is such a multiple, or that lies below the
binade `t` while the quotient does not. -/
theorem roundDivEven_grid_nearest {n d t F : Nat} (hd : 0 < d) (hn : t = 0 ∨ 2 ^ 23 * (d * 2 ^ t) ≤ n)
    (hF : 2 ^ t ∣ F ∨ t ≠ 0 ∧ F < 2 ^ 23 * 2 ^ t) :
    (((roundDivEven n (d * 2 ^ t) * 2 ^ t : Nat) * d : Int) - n).natAbs ≤ ((F * d : Int) - n).natAbs ∧
      ((((roundDivEven n (d * 2 ^ t) * 2 ^ t : Nat) * d : Int) - n).natAbs = ((F * d : Int) - n).natAbs →
        F ≠ roundDivEven n (d * 2 ^ t) * 2 ^ t → roundDivEven n (d * 2 ^ t) % 2 = 0) := by
  have scaled : ∀ k : Nat, ((k * 2 ^ t : Nat) * d : Int) = k * (d * 2 ^ t : Nat) := fun k => by push_cast; ring
  have onGrid := fun k => roundDivEven_nearest n k (Nat.mul_pos hd (Nat.two_pow_pos t))
  rw [scaled]
  obtain ⟨k, rfl⟩ | ⟨ht, hlt⟩ := hF
  · rw [Nat.mul_comm (2 ^ t) k, scaled]
    exact ⟨(onGrid k).1, fun heq hne => (onGrid k).2 heq fun hk => hne (congrArg (· * 2 ^ t) hk)⟩
  · have hleast := (onGrid (2 ^ 23)).1
    have hbelow : (F * d : Int) < (2 ^ 23 : Nat) * (d * 2 ^ t : Nat) := by
      rw [← scaled]
      exact_mod_cast Nat.mul_lt_mul_of_pos_right hlt hd
    have habove : ((2 ^ 23 : Nat) * (d * 2 ^ t : Nat) : Int) ≤ n := by exact_mod_cast hn.resolve_left ht
    exact ⟨by omega, fun heq => by omega⟩

/-- No binary32 number is nearer to the quotient than the rounded one. -/
theorem rne32_nearest {m d : Nat} (hd : 0 < d) (h : m < 2 ^ 127 * d) (g : BitVec 32) :
    ((f32Scaled (rne32 m d) * d : Int) - (m * 2 ^ 149 : Nat)).natAbs ≤
        ((f32Scaled g * d : Int) - (m * 2 ^ 149 : Nat)).natAbs ∧
      (((f32Scaled (rne32 m d) * d : Int) - (m * 2 ^ 149 : Nat)).natAbs =
          ((f32Scaled g * d : Int) - (m * 2 ^ 149 : Nat)).natAbs →
        f32Scaled g ≠ f32Scaled (rne32 m d) → (rne32 m d).getLsbD 0 = false) := by
  rw [rne32_getLsbD_zero hd h, f32Scaled_rne32 hd h]
  obtain ⟨hnear, hties⟩ := roundDivEven_grid_nearest hd (binade_spec m d hd).1 (f32Scaled_dvd_or_lt g _)
  refine ⟨hnear, fun heq hne => ?_⟩
  have heven : significand m d % 2 = 0 := hties heq hne
  simp [heven]

/-- Settles O46: no magnitude of DECODE overflows, so its rounded quotient is finite and nearest. -/
theorem storedFloatIsNearestEven : Obligations.StoredFloatIsNearestEven := by
  intro m dp hm hdp
  have hd : 0 < 10 ^ dp := Nat.pow_pos (by decide)
  have hmax := magnitude_lt_max hm hd
  refine ⟨rne32_sign m _, f32Exponent_rne32_lt hd hmax, fun g _ => ?_⟩
  simpa using rne32_nearest hd hmax g

/-- Settles O47: the quotient of a magnitude other than 0 lies above the subnormals. -/
theorem storedFloatIsNormalOrZero : Obligations.StoredFloatIsNormalOrZero := by
  intro m dp hm hdp
  refine ⟨fun h0 => by rw [h0, rne32_zero], fun h0 => ?_⟩
  have hd : 0 < 10 ^ dp := Nat.pow_pos (by decide)
  have hmax := magnitude_lt_max hm hd
  have hnormal := binade_ne_zero h0 hd (ten_pow_le_two_pow hdp)
  exact ⟨f32Exponent_rne32_pos hd hmax hnormal, Nat.le_of_lt_succ (f32Exponent_rne32_lt hd hmax)⟩

/-! ### Exact operands -/

/-- An integer of 24 significant bits converts to binary32 exactly. -/
theorem f32Scaled_rne32_of_integer {a b : Nat} (ha : a < 2 ^ 24) (hb : b ≤ 103) :
    f32Scaled (rne32 (a * 2 ^ b) 1) = a * 2 ^ b * 2 ^ 149 := by
  have hlt : a * 2 ^ b < 2 ^ (24 + b) * 1 := by
    rw [Nat.mul_one, pow_add]
    exact Nat.mul_lt_mul_of_pos_right ha (Nat.two_pow_pos b)
  have hmax : a * 2 ^ b < 2 ^ 127 * 1 :=
    hlt.trans_le (Nat.mul_le_mul_right 1 (Nat.pow_le_pow_right (by decide) (by omega)))
  have ht := binade_lt Nat.one_pos hlt
  have hdvd : 1 * 2 ^ binade (a * 2 ^ b) 1 ∣ a * 2 ^ b * 2 ^ 149 := by
    rw [Nat.one_mul, Nat.mul_assoc, ← pow_add]
    exact Dvd.dvd.mul_left (pow_dvd_pow 2 (by omega)) a
  rw [f32Scaled_rne32 Nat.one_pos hmax, ← roundDivEven_mul_of_dvd (by simp) hdvd, significand, Nat.one_mul]

/-- A binary32 number is a significand below `2^24` times a power of 2. -/
theorem f32Scaled_eq_mul_pow (g : BitVec 32) : ∃ c e : Nat, c < 2 ^ 24 ∧ f32Scaled g = c * 2 ^ e := by
  have hf := f32Fraction_lt g
  rw [f32Scaled]
  split
  · exact ⟨f32Fraction g, 0, by omega, by simp⟩
  · exact ⟨2 ^ 23 + f32Fraction g, f32Exponent g - 1, by omega, rfl⟩

/-- An odd factor of a positive binary32 number has at most 24 bits. -/
theorem lt_of_odd_dvd_f32Scaled {g : BitVec 32} {a : Nat} (ha : Odd a) (h0 : f32Scaled g ≠ 0) (h : a ∣ f32Scaled g) :
    a < 2 ^ 24 := by
  obtain ⟨c, e, hc, heq⟩ := f32Scaled_eq_mul_pow g
  rw [heq] at h0 h
  have hdvd : a ∣ c := (Nat.Coprime.pow_right e ha.coprime_two_right).dvd_of_dvd_mul_right h
  exact (Nat.le_of_dvd (Nat.pos_of_ne_zero (left_ne_zero_of_mul h0)) hdvd).trans_lt hc

/-- A power of ten is a power of five shifted. -/
theorem ten_pow_eq (n : Nat) : 10 ^ n = 5 ^ n * 2 ^ n := by rw [← Nat.mul_pow]

/-- Settles O48: `5^10` has 24 bits, and `5^11` has more. -/
theorem exactBinary32Operands : Obligations.ExactBinary32Operands := by
  refine ⟨fun m hm => ?_, fun dp hdp => ?_, fun dp g h11 _ _ heq => ?_⟩
  · simpa using f32Scaled_rne32_of_integer (a := m) (b := 0) (by omega) (by decide)
  · have h5 : 5 ^ dp < 2 ^ 24 := (Nat.pow_le_pow_right (by decide) hdp).trans_lt (by decide : 5 ^ 10 < 2 ^ 24)
    rw [ten_pow_eq]
    exact f32Scaled_rne32_of_integer h5 (by omega)
  · have hdvd : 5 ^ dp ∣ f32Scaled g := by
      rw [heq, ten_pow_eq, Nat.mul_assoc]
      exact Nat.dvd_mul_right _ _
    have h0 : f32Scaled g ≠ 0 := by
      rw [heq]
      exact Nat.mul_ne_zero (pow_ne_zero dp (by decide)) (pow_ne_zero 149 (by decide))
    have hlt := lt_of_odd_dvd_f32Scaled (Odd.pow (by decide)) h0 hdvd
    have hge : 5 ^ 11 ≤ 5 ^ dp := Nat.pow_le_pow_right (by decide) h11
    omega

end Sys2Proof.Machine

/-!
DECODE: its three errors change nothing, and a success writes what the buffer holds (spec/41_decoder.md R130 to R142).
-/

namespace Sys2Proof.Machine

open Sys2Proof.Config

theorem exec_decode {s : State} {sid : Nat} {x : Session} (hx : s.sessions[sid]? = some x) (data : BitVec 8) :
    exec (.decode sid data) s = .next
      ((s.setSession sid (x.decodeFrame s.params.strictBcd).1).respond (x.decodeFrame s.params.strictBcd).2) :=
  onSession_some hx _

/-! ### Errors -/

theorem decodeFrame_of_incomplete {x : Session} (h : x.nibCnt ≠ 13#4) (strict : Bool) :
    x.decodeFrame strict = (x, errorResponse .errInvalidState) := by
  obtain ⟨_, e⟩ | ⟨h13, _⟩ | ⟨h13, _⟩ | ⟨h13, _⟩ := decodeFrame_cases strict x
  · exact e
  all_goals exact absurd h13 h

theorem decodeFrame_of_wrongHeader {x : Session} (h13 : x.nibCnt = 13#4) (h : headerOk x.buf = false) (strict : Bool) :
    x.decodeFrame strict = (x, errorResponse .errInvalidFrameData) := by
  obtain ⟨hne, _⟩ | ⟨_, _, e⟩ | ⟨_, hok, _⟩ | ⟨_, hok, _⟩ := decodeFrame_cases strict x
  · exact absurd h13 hne
  · exact e
  all_goals exact absurd (h.symm.trans hok) Bool.false_ne_true

theorem decodeFrame_of_strictDigit {x : Session} (h13 : x.nibCnt = 13#4) (hhead : headerOk x.buf = true)
    (h : outOfRange x.buf = true) : x.decodeFrame true = (x, errorResponse .errInvalidFrameData) := by
  obtain ⟨hne, _⟩ | ⟨_, hbad, _⟩ | ⟨_, _, _, e⟩ | ⟨_, _, hdigits, _⟩ := decodeFrame_cases true x
  · exact absurd h13 hne
  · exact absurd (hbad.symm.trans hhead) Bool.false_ne_true
  · exact e
  · exact absurd ⟨rfl, h⟩ hdigits

theorem decodeFrame_of_accepted {strict : Bool} {x : Session} (h13 : x.nibCnt = 13#4) (hhead : headerOk x.buf = true)
    (h : ¬(strict = true ∧ outOfRange x.buf = true)) :
    x.decodeFrame strict = ({ x with res := decodedResult x.buf }, ⟨.success, 0x00000000#32⟩) := by
  obtain ⟨hne, _⟩ | ⟨_, hbad, _⟩ | ⟨_, _, hdigits, _⟩ | ⟨_, _, _, e⟩ := decodeFrame_cases strict x
  · exact absurd h13 hne
  · exact absurd (hbad.symm.trans hhead) Bool.false_ne_true
  · exact absurd hdigits h
  · exact e

/-- A DECODE that answers an error writes its session back as it was. -/
theorem exec_decode_of_error {s : State} {sid : Nat} {x : Session} {st : Status} (hx : s.sessions[sid]? = some x)
    (h : x.decodeFrame s.params.strictBcd = (x, errorResponse st)) (data : BitVec 8) :
    exec (.decode sid data) s = .next (s.raise st) := by
  rw [exec_decode hx, h, State.setSession_self hx]
  rfl

/-- Settles O38: the count is the first check. -/
theorem decodeOfIncompleteFrame : Obligations.DecodeOfIncompleteFrame :=
  fun _ _ data _ hx hn => exec_decode_of_error hx (decodeFrame_of_incomplete hn _) data

/-- Settles O39: the header is the check after the count. -/
theorem decodeOfWrongHeader : Obligations.DecodeOfWrongHeader := by
  intro s sid data x hx h13 ⟨i, hi, hne⟩
  have hbad : headerOk x.buf = false :=
    Bool.eq_false_iff.2 fun hok => hne ((headerOk_iff x.buf).1 hok i hi)
  exact exec_decode_of_error hx (decodeFrame_of_wrongHeader h13 hbad _) data

/-- Settles O40: under `STRICT_BCD` the digits are the last check. -/
theorem strictDecodeOfOutOfRangeDigit : Obligations.StrictDecodeOfOutOfRangeDigit := by
  intro s sid data x hx h13 hhead hstrict hdigit
  refine exec_decode_of_error hx ?_ data
  rw [hstrict]
  exact decodeFrame_of_strictDigit h13 ((headerOk_iff x.buf).2 hhead) ((outOfRange_iff x.buf).2 hdigit)

/-- Settles O44: a session with a result would pass every check, so there is none. -/
theorem failedDecodeFindsNoResult : Obligations.FailedDecodeFindsNoResult := by
  intro s t sid data x r hinv hx he hr herr
  obtain ⟨_, hans⟩ := exec_effect (i := .decode sid data) rfl hx he
  obtain rfl := hr.unique hans
  obtain ⟨hok, haccepted⟩ := hinv.sessionsOk x (List.mem_of_getElem? hx)
  have hnone : x.res.valid = false := by
    refine Bool.eq_false_iff.2 fun hv => herr ?_
    obtain ⟨hhead, hdigits⟩ := haccepted hv
    rw [decodeFrame_of_accepted (hok.result hv).1 hhead hdigits]
  refine ⟨hok.noResult hnone, ?_⟩
  rw [exec_decode hx, decodeFrame_of_error herr, State.setSession_self hx] at he
  cases he
  rfl

/-! ### A second DECODE -/

/-- DECODE of a session it has decoded answers and leaves the same again (41_decoder.md R142). -/
theorem decodeFrame_again (strict : Bool) (x : Session) :
    (x.decodeFrame strict).1.decodeFrame strict = x.decodeFrame strict := by
  obtain ⟨_, e⟩ | ⟨_, _, e⟩ | ⟨_, _, _, e⟩ | ⟨h13, hhead, hdigits, e⟩ := decodeFrame_cases strict x
  · rw [e, e]
  · rw [e, e]
  · rw [e, e]
  · rw [e]
    exact decodeFrame_of_accepted h13 hhead hdigits

/-- Replacing a session by one that agrees under `f` keeps the list under `f`. -/
theorem State.map_setSession {α : Type} {s : State} {sid : Nat} {x y : Session} (f : Session → α)
    (hx : s.sessions[sid]? = some x) (h : f y = f x) : (s.setSession sid y).sessions.map f = s.sessions.map f := by
  rw [State.setSession_sessions, List.map_set, h, ← List.map_set, ← State.setSession_sessions,
    State.setSession_self hx]

/-- Settles O43: on an absent session both DECODEs answer its error, on a present one the second writes back what the
first left. -/
theorem repeatedDecodeGivesTheSame : Obligations.RepeatedDecodeGivesTheSame := by
  intro s sid data data'
  cases hx : s.sessions[sid]? with
  | none =>
    exact ⟨_, _, errorResponse .errInvalidSession, onSession_none hx _, onSession_none (s := s.raise _) hx _, rfl, rfl,
      rfl, rfl⟩
  | some x =>
    have ht : ((s.setSession sid (x.decodeFrame s.params.strictBcd).1).respond
        (x.decodeFrame s.params.strictBcd).2).sessions[sid]? = some (x.decodeFrame s.params.strictBcd).1 :=
      State.setSession_get hx _
    have hu := exec_decode ht data'
    simp only [State.respond_params, State.setSession_params, decodeFrame_again, State.setSession_self ht] at hu
    exact ⟨_, _, (x.decodeFrame s.params.strictBcd).2, exec_decode hx data, hu, rfl, rfl, rfl,
      State.map_setSession _ hx (by rw [decodeFrame_session])⟩

/-! ### The values of a successful DECODE -/

theorem magnitude_eq_digitSum (buf : Vector Nibble frameNibbles) : magnitude buf = digitSum buf := by
  simp only [magnitude, bufRead, List.foldl, Fin.getElem_fin, digitSum]
  change ((((((0 * 10 + buf[5].toNat) * 10 + buf[6].toNat) * 10 + buf[7].toNat) * 10 + buf[8].toNat) * 10 +
    buf[9].toNat) * 10 + buf[10].toNat) = _
  omega

/-- Digits of at most `d` sum to at most `d · 111111` (41_decoder.md R135). -/
theorem digitSum_le {buf : Vector Nibble frameNibbles} {d : Nat}
    (h : ∀ i : Fin frameNibbles, 5 ≤ i.val → i.val ≤ 10 → (buf[i]).toNat ≤ d) : digitSum buf ≤ d * 111111 := by
  have h5 : buf[5].toNat ≤ d := h 5 (by decide) (by decide)
  have h6 : buf[6].toNat ≤ d := h 6 (by decide) (by decide)
  have h7 : buf[7].toNat ≤ d := h 7 (by decide) (by decide)
  have h8 : buf[8].toNat ≤ d := h 8 (by decide) (by decide)
  have h9 : buf[9].toNat ≤ d := h 9 (by decide) (by decide)
  have h10 : buf[10].toNat ≤ d := h 10 (by decide) (by decide)
  unfold digitSum
  omega

/-- No frame's magnitude exceeds 1666665 (41_decoder.md R135). -/
theorem digitSum_le_max (buf : Vector Nibble frameNibbles) : digitSum buf ≤ 1666665 :=
  digitSum_le fun i _ _ => Nat.le_of_lt_succ (buf[i]).isLt

/-- Settles O45: nibbles are at most 15, and decimal digits at most 9. -/
theorem magnitudeIsDigitSum : Obligations.MagnitudeIsDigitSum := by
  intro buf
  rw [magnitude_eq_digitSum]
  exact ⟨rfl, digitSum_le_max buf, digitSum_le⟩

/-- The signed mantissa of a magnitude of 31 bits is not cut off. -/
theorem signedMantissa_toInt (neg : Bool) {m : Nat} (hm : m < 2 ^ 31) :
    (signedMantissa neg m).toInt = if neg then -(m : Int) else m := by
  unfold signedMantissa
  rw [BitVec.toInt_ofInt, Int.bmod_eq_of_le] <;> split <;> omega

/-- The stored float has the sign flag as its sign bit. -/
theorem signedFloat_sign (neg : Bool) (m : Nat) (dp : Nibble) : (signedFloat neg m dp).getLsbD 31 = neg := by
  cases neg <;> simp [signedFloat]

/-- The sign flag changes no other bit of the stored float (41_decoder.md R138). -/
theorem signedFloat_magnitude (neg : Bool) (m : Nat) (dp : Nibble) :
    (signedFloat neg m dp).extractLsb' 0 31 = (rne32 m (10 ^ dp.toNat)).extractLsb' 0 31 := by
  cases neg <;> simp [signedFloat]

theorem unitOf_eq_mm_iff (u : Nibble) : unitOf u = .mm ↔ u = 0#4 := by
  unfold unitOf
  split <;> simp_all

/-- A DECODE that passes its checks writes the decoded result of its buffer (41_decoder.md R130). -/
theorem exec_decode_of_accepted {s : State} {sid : Nat} {x : Session} (hx : s.sessions[sid]? = some x)
    (h13 : x.nibCnt = 13#4) (hhead : headerOk x.buf = true)
    (hdigits : ¬(s.params.strictBcd = true ∧ outOfRange x.buf = true)) (data : BitVec 8) :
    exec (.decode sid data) s = .next
      ((s.setSession sid { x with res := decodedResult x.buf }).respond ⟨.success, 0x00000000#32⟩) := by
  rw [exec_decode hx, decodeFrame_of_accepted h13 hhead hdigits]

/-- No digit of the buffer is out of range. -/
theorem outOfRange_eq_false {buf : Vector Nibble frameNibbles}
    (h : ∀ i : Fin frameNibbles, 5 ≤ i.val → i.val ≤ 10 → (buf[i]).toNat ≤ 9) : outOfRange buf = false :=
  Bool.eq_false_iff.2 fun hor =>
    have ⟨i, h5, h10, h9⟩ := (outOfRange_iff buf).1 hor
    absurd (h i h5 h10) h9.not_ge

/-- Settles O41: the registers are those of `decodedResult`, with the magnitude as the digit sum. -/
theorem decodeWritesResult : Obligations.DecodeWritesResult := by
  intro s sid data x hx h13 hhead hdigits
  have hchecks : ¬(s.params.strictBcd = true ∧ outOfRange x.buf = true) := fun ⟨hstrict, hor⟩ =>
    Bool.false_ne_true ((outOfRange_eq_false (hdigits hstrict)).symm.trans hor)
  have hsum := magnitude_eq_digitSum x.buf
  have hmax : digitSum x.buf < 2 ^ 31 := (digitSum_le_max x.buf).trans_lt (by norm_num)
  refine ⟨_, _, exec_decode_of_accepted hx h13 ((headerOk_iff x.buf).2 hhead) hchecks data,
    State.setSession_get hx _, ?_, ?_, signedFloat_sign _ _ _, ?_, rfl, unitOf_eq_mm_iff _, rfl, rfl,
    outOfRange_iff x.buf, rfl, rfl, rfl, rfl, rfl, rfl, changesOnlySession_set _ _ _ _⟩
  · rw [← signedMantissa_toInt _ hmax, ← hsum]; rfl
  · rw [← hsum]; rfl
  · rw [← hsum]; exact signedFloat_magnitude _ _ _

/-- Settles O42: the magnitude is 0, and its float is +0 with the sign bit inverted. -/
theorem negativeZeroKeepsItsSign : Obligations.NegativeZeroKeepsItsSign := by
  intro s sid data x hx h13 hhead hzero hsign
  have hdigit : ∀ i : Fin frameNibbles, 5 ≤ i.val → i.val ≤ 10 → (x.buf[i]).toNat ≤ 0 := fun i h5 h10 => by
    rw [hzero i h5 h10]; decide
  have hsum : digitSum x.buf = 0 := Nat.le_zero.1 (digitSum_le hdigit)
  obtain ⟨t, y, he, hy, hint, hf32, -, -, -, -, -, hneg, -⟩ :=
    decodeWritesResult s sid data x hx h13 hhead fun _ i h5 h10 => (hdigit i h5 h10).trans (by decide)
  rw [hsum, if_pos hsign] at hint hf32
  exact ⟨t, y, he, hy, hf32.trans (by rw [rne32_zero]; decide), BitVec.eq_of_toInt_eq hint, hneg.trans hsign⟩

end Sys2Proof.Machine

/-!
The round trip of a measurement: the commands of a frame put its nibbles into the buffer, and DECODE reads the value
back (spec/30_encoding.md R81; spec/41_decoder.md R145).
-/

namespace Sys2Proof.Machine

open Sys2Proof.Config

/-! ### A frame's commands -/

/-- The DATA word of one bit of a nibble (30_encoding.md R81). -/
def bitData (v : Nibble) (k : Nat) : BitVec 8 := (BitVec.ofBool (v.getLsbD k)).setWidth 8

theorem bitData_getLsbD_zero (v : Nibble) (k : Nat) : (bitData v k).getLsbD 0 = v.getLsbD k := by
  simp [bitData]

/-- The DATA words of a frame's 52 BIT commands: four to a nibble, least significant bit first. -/
def frameBits (ns : Vector Nibble frameNibbles) : Vector (BitVec 8) 52 :=
  Vector.ofFn fun j : Fin (13 * 4) => bitData (ns[j.val / 4]'(show j.val / 4 < 13 by omega)) (j.val % 4)

/-- Bit `k` of nibble `i` is sent in the BIT at index `4 i + k`. -/
theorem frameBits_getElem (ns : Vector Nibble frameNibbles) {i k : Nat} (hi : i < 13) (hk : k < 4) :
    (frameBits ns)[4 * i + k] = bitData ns[i] k := by
  simp [frameBits, show (4 * i + k) / 4 = i by omega, show (4 * i + k) % 4 = k by omega]

/-- The bits of a nibble as they are sent weigh up to the nibble (40_accumulator.md R117). -/
theorem frameBits_sum (ns : Vector Nibble frameNibbles) {i : Nat} (hi : i < 13) :
    ((frameBits ns)[4 * i].getLsbD 0).toNat + 2 * ((frameBits ns)[4 * i + 1].getLsbD 0).toNat +
      4 * ((frameBits ns)[4 * i + 2].getLsbD 0).toNat + 8 * ((frameBits ns)[4 * i + 3].getLsbD 0).toNat =
        (ns[i]).toNat := by
  have hbit : ∀ (k : Nat) (hk : k < 4), ((frameBits ns)[4 * i + k]).getLsbD 0 = (ns[i]).getLsbD k :=
    fun k hk => by rw [frameBits_getElem ns hi hk, bitData_getLsbD_zero]
  rw [nibble_toNat ns[i], ← hbit 0 (by decide), ← hbit 1 (by decide), ← hbit 2 (by decide), ← hbit 3 (by decide)]
  rfl

theorem vector_toList_eq_ofFn {α : Type} {n : Nat} (v : Vector α n) : v.toList = List.ofFn fun i : Fin n => v[i.val] :=
  (congrArg Vector.toList Vector.ofFn_getElem).symm.trans Vector.toList_ofFn

/-- The BITs of one nibble, out of a frame's. -/
theorem nibCommands_eq (sid : Nat) (ns : Vector Nibble frameNibbles) {i : Nat} (hi : i < 13) :
    nibCommands sid ns[i] = (List.ofFn fun k : Fin 4 => (frameBits ns)[4 * i + k]).map (.bit sid) := by
  simp only [frameBits_getElem ns hi (Fin.isLt _)]
  rfl

/-- A frame's commands are those 52 BITs. -/
theorem frameCommands_eq (sid : Nat) (ns : Vector Nibble frameNibbles) :
    frameCommands sid ns = (frameBits ns).toList.map (.bit sid) :=
  calc frameCommands sid ns
      = (List.ofFn fun i : Fin 13 => nibCommands sid ns[i.val]).flatten := by
        rw [frameCommands, vector_toList_eq_ofFn, List.flatMap, List.map_ofFn]; rfl
    _ = ((List.ofFn fun i : Fin 13 => List.ofFn fun k : Fin 4 => (frameBits ns)[4 * i.val + k]).flatten).map
          (.bit sid) := by
        rw [List.map_flatten, List.map_ofFn]
        exact congrArg (fun f => (List.ofFn f).flatten) (funext fun i => nibCommands_eq sid ns i.isLt)
    _ = (frameBits ns).toList.map (.bit sid) := by
        rw [vector_toList_eq_ofFn (frameBits ns)]
        exact congrArg (List.map (Instr.bit sid))
          (List.ofFn_mul' (m := 4) (n := 13) fun j => (frameBits ns)[j.val]).symm

/-- From the zeroed state a frame's commands leave its nibbles in the buffer (40_accumulator.md R117). -/
theorem execAll_frameCommands {s : State} {sid : Nat} (ns : Vector Nibble frameNibbles)
    (hx : s.sessions[sid]? = some Session.zeroed) :
    ∃ t y, execAll (frameCommands sid ns) s = .next t ∧ t.sessions[sid]? = some y ∧ y.buf = ns ∧ y.nibCnt = 13#4 ∧
      t.params = s.params := by
  obtain ⟨t, y, ht, hy, hbuf, h13, -, -, -, -, hframe, -⟩ := fiftyTwoBitsFillTheBuffer s sid (frameBits ns) hx
  have hns : y.buf = ns := Vector.ext fun i hi => BitVec.eq_of_toNat_eq ((hbuf i hi).trans (frameBits_sum ns hi))
  exact ⟨t, y, (congrArg (execAll · s) (frameCommands_eq sid ns)).trans ht, hy, hns, h13, hframe.params⟩

/-! ### A measurement -/

theorem measFrame_header (negative : Bool) (ds : Vector (Fin 10) digits) (p u : Nibble) :
    ∀ i : Fin frameNibbles, i.val < 4 → (measFrame negative ds p u)[i] = 0xF#4 := by
  intro ⟨i, hi⟩ h4
  simp only at h4
  interval_cases i <;> rfl

theorem digitNibble_le (d : Fin 10) : (BitVec.ofNat 4 d).toNat ≤ 9 := by
  revert d
  decide

theorem digitNibble_ofNat (n : Nat) : (BitVec.ofNat 4 (Fin.ofNat 10 n)).toNat = n % 10 := by
  simp only [BitVec.toNat_ofNat, Fin.val_ofNat]
  omega

theorem measFrame_digit_le (negative : Bool) (ds : Vector (Fin 10) digits) (p u : Nibble) :
    ∀ i : Fin frameNibbles, 5 ≤ i.val → i.val ≤ 10 → ((measFrame negative ds p u)[i]).toNat ≤ 9 := by
  intro ⟨i, hi⟩ h5 h10
  simp only at h5 h10
  interval_cases i <;> exact digitNibble_le _

theorem measFrame_sign (negative : Bool) (ds : Vector (Fin 10) digits) (p u : Nibble) :
    ((measFrame negative ds p u)[4]).getLsbD 3 = negative := by
  cases negative <;> simp [measFrame]

theorem measFrame_dp (negative : Bool) (ds : Vector (Fin 10) digits) (p u : Nibble) :
    (measFrame negative ds p u)[11] = p := by
  simp [measFrame]

theorem measFrame_unit (negative : Bool) (ds : Vector (Fin 10) digits) (p u : Nibble) :
    (measFrame negative ds p u)[12] = u := by
  simp [measFrame]

/-- The digit sum of a measurement's frame is its magnitude (41_decoder.md R145). -/
theorem digitSum_measFrame (negative : Bool) {m : Nat} (hm : m ≤ 999999) (p u : Nibble) :
    digitSum (measFrame negative (decimalDigits m) p u) = m := by
  have hsum : digitSum (measFrame negative (decimalDigits m) p u) =
      m / 100000 % 10 * 100000 + m / 10000 % 10 * 10000 + m / 1000 % 10 * 1000 + m / 100 % 10 * 100 +
        m / 10 % 10 * 10 + m % 10 := by
    simp only [← digitNibble_ofNat]
    rfl
  omega

/-- A unit register is determined by when it reads MM (10_state.md R33). -/
theorem unit_eq_of_mm_iff {v : MeasUnit} {u : Nibble} (h : v = .mm ↔ u = 0#4) :
    v = if u = 0#4 then .mm else .inch := by
  cases v <;> simp_all

/-- Settles O49: the frame is in the buffer when DECODE runs, it passes every check, and its digit sum is the
magnitude. -/
theorem measurementRoundTrip : Obligations.MeasurementRoundTrip := by
  intro s sid negative m p u data hx hm _
  obtain ⟨t, x, ht, htx, hbuf, h13, hparams⟩ := execAll_frameCommands (measFrame negative (decimalDigits m) p u) hx
  obtain ⟨v, y, hv, hvy, hint, hf32, -, -, hdp, hunit, -, -, -, hvalid, -, -, -, -, hans, -⟩ :=
    decodeWritesResult t sid data x htx h13 (hbuf ▸ measFrame_header negative _ p u)
      fun _ => hbuf ▸ measFrame_digit_le negative _ p u
  rw [hbuf, measFrame_sign, digitSum_measFrame negative hm] at hint hf32
  rw [measFrame_dp] at hf32
  rw [hbuf] at hdp hunit
  rw [measFrame_unit] at hunit
  refine ⟨v, y, t.inFlight, ?_, hvy, ?_, hint, hdp.trans (measFrame_dp _ _ p u), hf32,
    unit_eq_of_mm_iff hunit, hvalid⟩
  · exact (execAll_append ht).trans (execAll_cons hv)
  · rw [hans, hparams]

end Sys2Proof.Machine

/-!
Result access: the float and the mantissa that RDF and RDI answer, and the zeros that every read answers while no result
is present (spec/42_result_access.md).
-/

namespace Sys2Proof.Machine

/-- Settles O50: RDF and RDI each read one result register. -/
theorem readsAnswerResultRegisters : Obligations.ReadsAnswerResultRegisters := by
  intro s sid data x hx
  exact ⟨onSession_readResult hx ResultRegs.f32, onSession_readResult hx ResultRegs.int⟩

/-- While no result is present the registers hold their reset values (10_state.md R39). -/
theorem State.Inv.res_eq_zeroed {s : State} {sid : Nat} {x : Session} (h : s.Inv) (hx : s.sessions[sid]? = some x)
    (hv : x.res.valid = false) : x.res = ResultRegs.zeroed := by
  obtain ⟨hinv, _⟩ := h.sessionsOk x (List.mem_of_getElem? hx)
  exact hinv.noResult hv

/-- The info word of the reset values is 0 (42_result_access.md R173). -/
theorem infoWord_zeroed : infoWord ResultRegs.zeroed = 0x00000000#32 := by decide

/-- Settles O52: each of the three reads answers what it makes of the reset values, which is 0. -/
theorem readsWithoutResultAnswerZero : Obligations.ReadsWithoutResultAnswerZero := by
  intro s sid data x hinv hx hv i hi
  have hread : ∀ read : ResultRegs → DataWord, read ResultRegs.zeroed = 0x00000000#32 →
      s.onSession sid (Session.readResult read) = .next (s.respond ⟨.success, 0x00000000#32⟩) := by
    intro read hzero
    rw [onSession_readResult hx, hinv.res_eq_zeroed hx hv, hzero]
  simp only [List.mem_cons, List.not_mem_nil, or_false] at hi
  obtain rfl | rfl | rfl := hi
  · exact hread ResultRegs.f32 rfl
  · exact hread ResultRegs.int rfl
  · exact hread infoWord infoWord_zeroed

end Sys2Proof.Machine

/-!
Errors: a command that answers one changes nothing, the first in the order of R205 is the one answered, and only
ERR_INVALID_FRAME_DATA looks at the frame (spec/60_exceptions.md R204 to R206).
-/

namespace Sys2Proof.Machine

open Sys2Proof.Config

/-! ### The statuses of BIT and DECODE -/

/-- The status of BIT is a function of the two counters (40_accumulator.md R110). -/
theorem acceptBit_status (x : Session) (b : Bool) :
    (x.acceptBit b).2.status =
      if 13 ≤ x.nibCnt.toNat then .errProtocolViolation
      else if x.bitCnt = 3#2 ∧ x.nibCnt + 1#4 = 13#4 then .frameComplete else .ongoing := by
  obtain ⟨hfull, h⟩ | ⟨hroom, h3, h⟩ | ⟨hroom, h3, h⟩ := acceptBit_cases x b
  · simp [h, hfull, errorResponse]
  · simp [h, h3, not_le.2 hroom]
  · simp [h, h3, not_le.2 hroom]

/-- The only error of BIT on an existing session is its counter check (60_exceptions.md R205 step 3). -/
theorem acceptBit_firstError (x : Session) (b : Bool) :
    (13 ≤ x.nibCnt.toNat → (x.acceptBit b).2.status = .errProtocolViolation) ∧
      (x.nibCnt.toNat < 13 → (x.acceptBit b).2.status = .ongoing ∨ (x.acceptBit b).2.status = .frameComplete) := by
  rw [acceptBit_status]
  refine ⟨fun hfull => if_pos hfull, fun hroom => ?_⟩
  rw [if_neg (not_le.2 hroom)]
  split
  · exact .inr rfl
  · exact .inl rfl

/-- The status of DECODE is a function of the count, unless the frame is at fault (60_exceptions.md R206). -/
theorem decodeFrame_status {strict : Bool} {x : Session}
    (h : (x.decodeFrame strict).2.status ≠ .errInvalidFrameData) :
    (x.decodeFrame strict).2.status = if x.nibCnt = 13#4 then .success else .errInvalidState := by
  obtain ⟨hn, e⟩ | ⟨_, _, e⟩ | ⟨_, _, _, e⟩ | ⟨h13, _, _, e⟩ := decodeFrame_cases strict x
  · rw [e, if_neg hn]
    rfl
  · exact absurd (by rw [e]; rfl) h
  · exact absurd (by rw [e]; rfl) h
  · rw [e, if_pos h13]

/-- The checks of DECODE on an existing session, in the order of 60_exceptions.md R205 steps 3 to 5. -/
theorem decodeFrame_firstError (strict : Bool) (x : Session) :
    (x.nibCnt ≠ 13#4 → (x.decodeFrame strict).2.status = .errInvalidState) ∧
    (x.nibCnt = 13#4 → (∃ i : Fin 13, i.val < 4 ∧ x.buf[i] ≠ 0xF#4) →
      (x.decodeFrame strict).2.status = .errInvalidFrameData) ∧
    (x.nibCnt = 13#4 → (∀ i : Fin 13, i.val < 4 → x.buf[i] = 0xF#4) →
      (strict = true ∧ (∃ i : Fin 13, 5 ≤ i.val ∧ i.val ≤ 10 ∧ 9 < (x.buf[i]).toNat) →
        (x.decodeFrame strict).2.status = .errInvalidFrameData) ∧
      (¬(strict = true ∧ ∃ i : Fin 13, 5 ≤ i.val ∧ i.val ≤ 10 ∧ 9 < (x.buf[i]).toNat) →
        (x.decodeFrame strict).2.status = .success)) := by
  refine ⟨fun hn => ?_, fun h13 ⟨i, hi, hne⟩ => ?_, fun h13 hhead => ?_⟩
  · rw [decodeFrame_of_incomplete hn]
    rfl
  · have hbad : headerOk x.buf = false := Bool.eq_false_iff.2 fun hok => hne ((headerOk_iff x.buf).1 hok i hi)
    rw [decodeFrame_of_wrongHeader h13 hbad]
    rfl
  · have hok : headerOk x.buf = true := (headerOk_iff x.buf).2 hhead
    refine ⟨fun ⟨hstrict, hdigit⟩ => ?_, fun hdigits => ?_⟩
    · rw [hstrict, decodeFrame_of_strictDigit h13 hok ((outOfRange_iff x.buf).2 hdigit)]
      rfl
    · rw [← outOfRange_iff] at hdigits
      rw [decodeFrame_of_accepted h13 hok hdigits]

/-! ### Errors change nothing -/

theorem success_not_error : ¬Status.success.code.getLsbD 3 = true := by decide

/-- A BIT that answers an error writes its session back as it was. -/
theorem acceptBit_of_error {x : Session} {b : Bool} (herr : (x.acceptBit b).2.status.code.getLsbD 3 = true) :
    (x.acceptBit b).1 = x := by
  by_cases hfull : 13 ≤ x.nibCnt.toNat
  · rw [acceptBit_of_full hfull]
  · obtain h | h := (acceptBit_firstError x b).2 (not_le.1 hfull) <;> simp [h, Status.code] at herr

/-- An effect that answers an error keeps its session (60_exceptions.md R204). -/
theorem sessionEffect_of_error {strict : Bool} {i : Instr} {f : Session → Session × Response} {x : Session}
    (hf : sessionEffect strict i = some f) (herr : (f x).2.status.code.getLsbD 3 = true) : (f x).1 = x := by
  obtain ⟨_, rfl⟩ | ⟨_, b, rfl⟩ | ⟨_, rfl⟩ | ⟨read, rfl⟩ := sessionEffect_cases hf
  · exact absurd herr success_not_error
  · exact acceptBit_of_error herr
  · exact decodeFrame_of_error fun hs => success_not_error (hs ▸ herr)
  · rfl

/-- Settles O19: every error is answered with the sessions as they were, and data comes with a success only. -/
theorem errorsChangeNothing : Obligations.ErrorsChangeNothing := by
  intro i s t r he hr herr
  have hdata : r.data = 0x00000000#32 := by
    by_contra hne
    obtain ⟨_, hs⟩ := (responsesAreThoseListed i s t r he hr).2 hne
    exact success_not_error (hs ▸ herr)
  refine ⟨?_, hdata⟩
  obtain ⟨_, h⟩ | ⟨_, _, _, h⟩ | ⟨f, x, hf, hx, h⟩ := exec_cases i s
  · cases h.symm.trans he
    rfl
  · cases h.symm.trans he
    rfl
  · cases h.symm.trans he
    obtain rfl := hr.unique rfl
    rw [State.respond_sessions, sessionEffect_of_error hf herr, State.setSession_self hx]

/-! ### The order of the errors -/

/-- A legal command is BIT, DECODE, or one that succeeds on every existing session. -/
theorem sessionEffect_cases_of_opcode {strict : Bool} {i : Instr} {f : Session → Session × Response}
    (hf : sessionEffect strict i = some f) :
    (i.opcode.toNat = 2 ∧ ∃ b, f = fun x => x.acceptBit b) ∨
    (i.opcode.toNat = 3 ∧ f = Session.decodeFrame strict) ∨
    (i.opcode.toNat ≠ 2 ∧ i.opcode.toNat ≠ 3 ∧ ∀ x, (f x).2.status = .success) := by
  cases i with
  | bit _ d => exact .inl ⟨rfl, bitOperand d, (Option.some.inj hf).symm⟩
  | decode _ _ => exact .inr (.inl ⟨rfl, (Option.some.inj hf).symm⟩)
  | reset _ _ | rdf _ _ | rdi _ _ | rdu _ _ =>
    cases hf
    exact .inr (.inr ⟨by simp [Instr.opcode], by simp [Instr.opcode], fun _ => rfl⟩)
  | _ => cases hf

/-- Settles O25: a command finds its opcode illegal, its session absent, or runs its effect, whose checks are those of
BIT or DECODE. -/
theorem firstErrorInOrderIsReported : Obligations.FirstErrorInOrderIsReported := by
  intro w s
  rw [← sidField_eq_shift, ← decode_sid, ← opField_eq_shift, ← decode_opcode, sid_eq_sessionIndex]
  have hillegal := sessionEffect_eq_none_iff s.params.strictBcd (decode w)
  obtain ⟨hf, h⟩ | ⟨f, hf, hx, h⟩ | ⟨f, x, hf, hx, h⟩ := exec_cases (decode w) s <;> rw [hf] at hillegal
  · have hop := hillegal.1 rfl
    exact ⟨_, errorResponse .errIllegalCommand, h, rfl, fun _ => rfl, fun _ _ => by omega⟩
  · refine ⟨_, errorResponse .errInvalidSession, h, rfl, fun hop => ?_, fun _ _ => ⟨fun _ => rfl, fun y hy => ?_⟩⟩
    · exact absurd (hillegal.2 hop) (Option.some_ne_none f)
    · exact absurd (hy.symm.trans hx) (Option.some_ne_none y)
  · refine ⟨_, (f x).2, h, rfl, fun hop => ?_, fun _ _ => ⟨fun habsent => ?_, fun y hy => ?_⟩⟩
    · exact absurd (hillegal.2 hop) (Option.some_ne_none f)
    · exact absurd (hx.symm.trans (List.getElem?_eq_none habsent)) (Option.some_ne_none x)
    · obtain rfl := Option.some.inj (hx.symm.trans hy)
      obtain ⟨hop, b, rfl⟩ | ⟨hop, rfl⟩ | ⟨h2, h3, hs⟩ := sessionEffect_cases_of_opcode hf
      · exact ⟨fun _ => acceptBit_firstError x b, fun _ => by omega, fun _ => by omega⟩
      · exact ⟨fun _ => by omega, fun _ => decodeFrame_firstError _ x, fun _ => by omega⟩
      · exact ⟨fun hop => absurd hop h2, fun hop => absurd hop h3, fun _ => hs x⟩

/-! ### What the frame can change -/

/-- The status of a command whose frame is not at fault, from the counters of its session (`none`: it does not
exist). -/
def statusFromCounters : Instr → Option (BitVec 2 × BitVec 4) → Status
  | .reset _ _, some _ | .rdf _ _, some _ | .rdi _ _, some _ | .rdu _ _, some _ => .success
  | .bit _ _, some (k, n) =>
    if 13 ≤ n.toNat then .errProtocolViolation
    else if k = 3#2 ∧ n + 1#4 = 13#4 then .frameComplete else .ongoing
  | .decode _ _, some (_, n) => if n = 13#4 then .success else .errInvalidState
  | .reset _ _, none | .bit _ _, none | .decode _ _, none | .rdf _ _, none | .rdi _ _, none | .rdu _ _, none =>
    .errInvalidSession
  | .illegal0 _ _, _ | .illegal7 _ _, _ | .illegal8 _ _, _ | .illegal9 _ _, _ | .illegalA _ _, _ | .illegalB _ _, _
  | .illegalC _ _, _ | .illegalD _ _, _ | .illegalE _ _, _ | .illegalF _ _, _ => .errIllegalCommand

theorem sessionAnswer_status {strict : Bool} {i : Instr} {o : Option Session}
    (h : (sessionAnswer strict i o).2.status ≠ .errInvalidFrameData) :
    (sessionAnswer strict i o).2.status = statusFromCounters i (o.map fun x => (x.bitCnt, x.nibCnt)) := by
  cases o with
  | none => cases i <;> rfl
  | some x =>
    cases i with
    | bit _ d => exact acceptBit_status x (bitOperand d)
    | decode _ _ => exact decodeFrame_status h
    | _ => rfl

/-- Settles O26: both statuses are what `statusFromCounters` gives from equal counters. -/
theorem onlyFrameDataErrorsDependOnTheFrame : Obligations.OnlyFrameDataErrorsDependOnTheFrame := by
  intro i s s' t t' r r' hcounters he he' hr hr' hne hne'
  obtain ⟨_, hans⟩ := exec_sessionAnswer he
  obtain ⟨_, hans'⟩ := exec_sessionAnswer he'
  obtain rfl := hr.unique hans
  obtain rfl := hr'.unique hans'
  rw [sessionAnswer_status hne, sessionAnswer_status hne', hcounters]

end Sys2Proof.Machine

/-!
The clock edge: what each kind of edge does to the state, with the build parameters kept and every step answered from a
state with the invariant (spec/70_reset_and_hazards.md R250 to R262).
-/

namespace Sys2Proof.Machine

/-! ### One rule per kind of edge -/

theorem PortCycle.accepts_iff (c : PortCycle) : c.accepts = true ↔ c.cmdValid = true ∧ c.cmdReady = true :=
  Bool.and_eq_true_iff

theorem step_of_rst {s : State} {c : PortCycle} {rest : List PortCycle} (hp : s.port = c :: rest)
    (hr : c.rst = true) : step s = .next { s with port := rest }.hardwareReset := by
  simp [step, hp, hr]

/-- An edge with no reset and no transfer, past the end of the port list too, does the clock work alone. -/
theorem step_of_no_transfer {s : State}
    (h : ∀ c rest, s.port = c :: rest → c.rst = false ∧ ¬(c.cmdValid = true ∧ c.cmdReady = true)) :
    step s = .next { s with port := s.port.tail }.clock := by
  obtain ⟨sessions, params, rstSeen, port, inFlight, rsp⟩ := s
  cases port with
  | nil => rfl
  | cons c rest =>
    obtain ⟨hr, ha⟩ := h c rest rfl
    rw [← c.accepts_iff] at ha
    simp [step, hr, ha]

/-- Settles O8: the command completes, and the clock work follows. -/
theorem stepRunsDecodedCommand : Obligations.StepRunsDecodedCommand := by
  rintro s c rest i hp hr hv hready hs rfl
  obtain ⟨t, he⟩ := exec_completes (decode c.cmdWord) { s with port := rest }
  refine ⟨t, he, ?_⟩
  rw [step_of_command hp hr (c.accepts_iff.2 ⟨hv, hready⟩) hs, he]
  rfl

/-- Settles O9: the oldest response in flight is due, has longer to wait, or is absent. -/
theorem edgeWithoutTransferOnlyMovesResponses : Obligations.EdgeWithoutTransferOnlyMovesResponses := by
  intro s h
  refine ⟨_, step_of_no_transfer h, State.clock_sessions _, State.clock_params _, State.clock_rstSeen _,
    State.clock_port _, fun r q hq => ?_, fun n r q hq => ?_, fun hq => ?_⟩
  · rw [State.clock_of_due (s := { s with port := s.port.tail }) hq le_rfl]
    exact ⟨rfl, rfl⟩
  · rw [State.clock_of_waiting (s := { s with port := s.port.tail }) hq (Nat.le_add_left 2 n)]
    exact ⟨rfl, rfl⟩
  · rw [State.clock_of_nil (s := { s with port := s.port.tail }) hq]
    exact ⟨rfl, hq⟩

/-- Settles O12: `step` looks at the reset record before it runs the command. -/
theorem commandBeforeFirstResetRefused : Obligations.CommandBeforeFirstResetRefused := by
  intro s c rest hp hr hv hready hs
  simp [step, hp, hr, c.accepts_iff.2 ⟨hv, hready⟩, hs]

/-! ### Hardware reset -/

theorem State.hardwareReset_sessions_eq_replicate (s : State) :
    s.hardwareReset.sessions = List.replicate s.nsess Session.zeroed :=
  List.map_const' ..

/-- Settles O10: every session after the edge is the zeroed one. -/
theorem hardwareResetZeroesEverySession : Obligations.HardwareResetZeroesEverySession := by
  intro s c rest hp hr
  refine ⟨_, step_of_rst hp hr, State.hardwareReset_nsess _, rfl, rfl, rfl, rfl, rfl, fun y hy => ?_⟩
  rw [State.hardwareReset_sessions_eq_replicate] at hy
  obtain rfl := List.eq_of_mem_replicate hy
  exact ⟨rfl, rfl, rfl, fun i => Session.zeroed_buf i i.isLt, rfl, rfl, rfl, rfl, rfl, rfl, rfl, rfl⟩

/-- RESETs one after another zero the existing sessions they name and leave the others alone. -/
theorem execAll_resets (ks : List Nat) (s : State) :
    ∃ u, execAll (ks.map fun k => .reset k 0#8) s = .next u ∧ u.nsess = s.nsess ∧
      ∀ k < s.nsess, u.sessions[k]? = if k ∈ ks then some Session.zeroed else s.sessions[k]? := by
  induction ks generalizing s with
  | nil => exact ⟨s, rfl, rfl, fun _ _ => rfl⟩
  | cons j ks ih =>
    obtain ⟨v, he⟩ := exec_completes (.reset j 0#8) s
    obtain ⟨_, hframe⟩ := exec_frame he
    obtain ⟨u, hu, hn, hsess⟩ := ih v
    refine ⟨u, (execAll_cons he).trans hu, hn.trans hframe.nsess, fun k hk => ?_⟩
    rw [hsess k (hframe.nsess.symm ▸ hk)]
    by_cases hj : k = j
    · subst hj
      simp [exec_reset_session hk he]
    · simp [hj, hframe.others k hj]

/-- Settles O11: the RESETs name every session, so each is zeroed in both states. -/
theorem hardwareResetIsResetOfEachSession : Obligations.HardwareResetIsResetOfEachSession := by
  intro s c rest hp hr
  obtain ⟨u, hu, hn, hsess⟩ := execAll_resets (List.range s.nsess) s
  refine ⟨_, u, step_of_rst hp hr, hu, ?_⟩
  rw [State.hardwareReset_sessions_eq_replicate]
  refine (List.eq_replicate_iff.2 ⟨hn, fun y hy => ?_⟩).symm
  obtain ⟨k, hk, rfl⟩ := List.getElem_of_mem hy
  have hks : k < s.nsess := hn ▸ hk
  have hz := hsess k hks
  rw [if_pos (List.mem_range.2 hks), List.getElem?_eq_getElem hk] at hz
  exact Option.some.inj hz

/-! ### Every step -/

/-- Settles O16: neither reset, nor a command, nor the clock work touches them. -/
theorem stepKeepsBuildParameters : Obligations.StepKeepsBuildParameters := by
  intro s t hstep
  obtain ⟨_, rfl⟩ | ⟨_, _, _, _, rfl⟩ | ⟨_, _, _, _, _, rfl⟩ | ⟨_, _, u, _, _, _, _, he, rfl⟩ := step_cases hstep
  · exact ⟨State.clock_params _, State.clock_nsess _⟩
  · exact ⟨rfl, State.hardwareReset_nsess _⟩
  · exact ⟨State.clock_params _, State.clock_nsess _⟩
  · obtain ⟨_, hframe⟩ := exec_frame he
    exact ⟨(State.clock_params u).trans hframe.params, (State.clock_nsess u).trans hframe.nsess⟩

/-- An edge with `rst` low begins its clock work with every response that was in flight, whether or not a command's
response joins them. -/
theorem State.Inv.step_of_rst_low {s : State} {c : PortCycle} {rest : List PortCycle} (h : s.Inv)
    (hp : s.port = c :: rest) (hr : c.rst = false) :
    ∃ v : State, step s = .next v.clock ∧ v.InvBeforeClock ∧ v.port = rest ∧ s.inFlight ⊆ v.inFlight := by
  by_cases ha : c.cmdValid = true ∧ c.cmdReady = true
  · obtain ⟨v, he, hstep⟩ := stepRunsDecodedCommand s c rest _ hp hr ha.1 ha.2 h.wasReset rfl
    obtain ⟨⟨r, hans⟩, hframe⟩ := exec_frame he
    refine ⟨v, hstep, exec_invBeforeClock (h.with_port rest) he, hframe.port, ?_⟩
    rw [hans]
    exact List.subset_append_left _ _
  · refine ⟨{ s with port := rest }, ?_, (h.with_port rest).before_clock, rfl, List.Subset.refl _⟩
    rw [step_of_no_transfer, hp, List.tail_cons]
    rintro c' rest' hp'
    obtain ⟨rfl, rfl⟩ := List.cons.inj (hp.symm.trans hp')
    exact ⟨hr, ha⟩

/-- Settles O17: the edge is past the end of the port list, a reset, or one with `rst` low. -/
theorem stepAlwaysAnswersAfterReset : Obligations.StepAlwaysAnswersAfterReset := by
  intro s h
  cases hp : s.port with
  | nil => exact ⟨_, step_of_no_transfer (by simp [hp])⟩
  | cons c rest =>
    cases hr : c.rst with
    | true => exact ⟨_, step_of_rst hp hr⟩
    | false =>
      obtain ⟨_, hstep, _⟩ := h.step_of_rst_low hp hr
      exact ⟨_, hstep⟩

/-! ### The response after `LAT` edges -/

/-- A response with more than one edge to wait is still in flight after the clock work, one edge nearer. -/
theorem State.mem_clock_inFlight {s : State} {n : Nat} {r : Response} (h : ⟨n + 2, r⟩ ∈ s.inFlight) :
    ⟨n + 1, r⟩ ∈ s.clock.inFlight := by
  have htick : ∀ {q : List Pending}, ⟨n + 2, r⟩ ∈ q → ⟨n + 1, r⟩ ∈ q.map Pending.tick := List.mem_map_of_mem
  cases hq : s.inFlight with
  | nil => simp [hq] at h
  | cons p q =>
    rw [hq] at h
    by_cases hp : p.wait ≤ 1
    · rw [State.clock_of_due hq hp]
      obtain rfl | h := List.mem_cons.1 h
      · simp at hp
      · exact htick h
    · rw [State.clock_of_waiting hq (by omega)]
      exact htick h

/-- A response with one edge to wait is the oldest, since the waits rise from 1, and so the clock work presents it. -/
theorem State.InvBeforeClock.clock_rsp {s : State} {r : Response} (h : s.InvBeforeClock)
    (hr : ⟨1, r⟩ ∈ s.inFlight) : s.clock.rsp = some r := by
  obtain ⟨hrise, hdue⟩ := h.waits
  cases hq : s.inFlight with
  | nil => simp [hq] at hr
  | cons p q =>
    rw [hq] at hr hrise hdue
    have hp := (hdue p List.mem_cons_self).1
    obtain rfl | hr := List.mem_cons.1 hr
    · rw [State.clock_of_due hq le_rfl]
    · rw [List.map_cons, List.pairwise_cons] at hrise
      have hlt : p.wait < 1 := hrise.1 _ (List.mem_map_of_mem hr)
      omega

/-- A response that has one edge more to wait than `between` is long is presented by the clock work of the last edge of
`between`, the edges of which may accept further commands. -/
theorem run_presents {between rest : List PortCycle} {v : State} {r : Response} (h : v.InvBeforeClock)
    (hp : v.port = between ++ rest) (hlow : ∀ d ∈ between, d.rst = false)
    (hr : ⟨between.length + 1, r⟩ ∈ v.inFlight) :
    ∃ u, core.run between.length v.clock = .next u ∧ u.port = rest ∧ u.rsp = some r := by
  induction between generalizing v with
  | nil => exact ⟨v.clock, rfl, (State.clock_port v).trans hp, h.clock_rsp hr⟩
  | cons d ds ih =>
    obtain ⟨hd, hds⟩ := List.forall_mem_cons.1 hlow
    obtain ⟨w, hstep, hw, hwp, hkept⟩ := h.clock_inv.step_of_rst_low ((State.clock_port v).trans hp) hd
    obtain ⟨u, hu⟩ := ih hw hwp hds (hkept (State.mem_clock_inFlight hr))
    refine ⟨u, ?_⟩
    rwa [List.length_cons, core_run_succ hstep]

/-- Settles O13: the accepted command's response joins those in flight with `LAT` edges to wait. -/
theorem responseComesLatEdgesAfterAcceptance : Obligations.ResponseComesLatEdgesAfterAcceptance := by
  intro s c between rest h hp hlen hr hv hready hlow
  obtain ⟨t, he, hstep⟩ := stepRunsDecodedCommand s c _ _ hp hr hv hready h.wasReset rfl
  obtain ⟨⟨r, hans⟩, hframe⟩ := exec_frame he
  have hmem : ⟨between.length + 1, r⟩ ∈ t.inFlight := by
    rw [hans, hlen]
    exact List.mem_append_right _ List.mem_cons_self
  obtain ⟨u, hu⟩ := run_presents (exec_invBeforeClock (h.with_port _) he) hframe.port hlow hmem
  refine ⟨t, r, u, he, hans, ?_⟩
  rwa [← hlen, core_run_succ hstep]

end Sys2Proof.Machine
